-- ==== Sys2Proof/Word.lean ====
section
/-! DEFINITION. The word types of the device and the identifiers' ranges (00_scope.md 4.3, 4.4, 4.7). -/

namespace Sys2Proof

/-- A byte of a parcel or of the external memory (00_scope.md 4.4). -/
abbrev Byte := BitVec 8

/-- A table word (00_scope.md 4.4). -/
abbrev Word := BitVec 32

/-- A page tag (00_scope.md 4.7). -/
abbrev Tag := BitVec 8

/-- A global line count or an image position: 32 bits, compared modulo 2^32 (R105). -/
abbrev Pos := BitVec 32

/-- A head port (00_scope.md 4.7). -/
abbrev PortIx := Fin 16

/-- A nozzle row within a head (00_scope.md 4.7). -/
abbrev RowIx := Fin 4

end Sys2Proof
end

