-- ==== Sys2Proof/Config.lean ====
section
/-! DEFINITION. What the part fixes (sizes, identity) and the free values the manual leaves open. -/

namespace Sys2Proof.Config

/-- Order queue places (R13). -/
def orderPlaces : Nat := 4
/-- Reply queue places (R15). -/
def replyPlaces : Nat := 4
/-- Return buffer places (R16). -/
def returnPlaces : Nat := 8
/-- Intake Buffer bytes (R18). -/
def intakeBytes : Nat := 262144
/-- Page queue records (R124). -/
def pagePlaces : Nat := 16
/-- Bytes of a memory segment (R81). -/
def segmentBytes : Nat := 1048576
/-- The largest ring capacity (R84). -/
def maxCapacity : Nat := 16383
/-- Limit of the reverse debt, 16 lines (R102). -/
def debtLimit : Nat := 1048576
/-- Phase units in a line (00_scope.md 4.3). -/
def lineUnits : Nat := 65536
/-- Value at which the edge timer stops (R110). -/
def edgeTimerLimit : Nat := 1048575
/-- FIREs without an answer at which a head is silent (R174). -/
def silentLimit : Nat := 128
/-- Ticks of a millisecond (00_scope.md 4.2: a tick is 10 ns). -/
def ticksPerMs : Nat := 100000
/-- Ticks of a microsecond. -/
def ticksPerUs : Nat := 100
/-- Ticks of a unit of the encoder filter, 20 ns (R99). -/
def ticksPerFilterUnit : Nat := 2
/-- Ticks of a waveform unit, 50 ns (R163). -/
def ticksPerWaveformUnit : Nat := 5
/-- Part code, table 0 word 0 (R29). -/
def partCode : Nat := 0x740
/-- Silicon revision, table 0 word 1: the one the manual describes (R29). -/
def revision : Nat := 1

/-- FREE VALUE. What a byte of external memory holds that no landing write has reached since power
was applied (R81: "an arbitrary value"), by address. Log 7. -/
opaque powerOnByte : Nat → Byte

/-- FREE VALUE. Whether byte `i` of a landing write that a reset abandoned had been written (R98: "may leave a
slot position partly written"), by the use number and the byte. Log 8. -/
opaque partialByte : Nat → Nat → Bool

end Sys2Proof.Config
end

