-- ==== Sys2Proof/Syntax.lean ====
section
/-! DEFINITION. The commands of the block: one constructor of `Instr` per row of spec/opcode_table.json.
The table gives no operands; those here are the model's, with the widths of the parcel fields (log 1, log 2). -/

namespace Sys2Proof

/-- The header fields of a LINE parcel (R4), in the order they travel. -/
structure LineHeader where
  plane : Byte
  tag : Tag
  line : BitVec 24
  firstColumn : BitVec 16
  countMinus1 : BitVec 16
  depth : Byte
deriving DecidableEq, Repr

/-- The header fields of an ORDER parcel (R4), in the order they travel. -/
structure OrderHeader where
  dest : Byte
  tag : Byte
  code : Byte
  words : Byte
deriving DecidableEq, Repr

/-- How far a down-lane parcel had come at an event (R2): none is open; one is open of which nothing is kept or repeated yet
(its whole header has not arrived, or it is a NUMBER of which `NumberPart.opened` did not tell); or the parcel whose header
arrived last is open and `bytes` have arrived behind its header. Log 12. -/
inductive DownPart where
  | between
  | headerless
  | afterHeader (bytes : List Byte)
deriving DecidableEq, Repr

/-- How much of a NUMBER parcel a command brings: all of it, from its start marker to its end marker; its start marker and its two header
bytes, from which on the parcel is held (R9, R21); or the end marker of the parcel held. `bytes` stand behind the header. Log 12. -/
inductive NumberPart where
  | whole (bytes : List Byte)
  | opened
  | closed (bytes : List Byte)
deriving DecidableEq, Repr

/-- The two closing markers of a parcel (R2). -/
inductive Closing where
  | endMarker
  | abortEnd
deriving DecidableEq, Repr

/-- The memory sizes the straps can set (R29). -/
inductive MemSize where
  | m512
  | m1024
  | m2048
deriving DecidableEq, Repr

/-- The encoder's two channels (R99). -/
inductive Channel where
  | a
  | b
deriving DecidableEq, Repr

/-- Which of an edge's own events is delivered first, where a forward edge makes both a global line event and row
line events (R109 leaves the order open; log 18). -/
inductive EdgeOrder where
  | lineFirst
  | rowsFirst
deriving DecidableEq, Repr

/-- The bytes of a head's FAULT between idle symbols, as they arrived: the first, and the code byte behind it, absent where idle came before
it (R174; log 42). -/
structure HeadBytes where
  first : Byte
  code : Option Byte
deriving DecidableEq, Repr

/-- The commands, in the order of the opcode table. The three messages of a head carry the bytes that arrived between idle symbols
(R174; log 42). -/
inductive Instr where
  | resetPinAssert
  | resetPinRelease (straps : MemSize)
  | downLaneSync
  | downLaneLost (part : DownPart)
  | downSymbolError (part : DownPart)
  | downParcelAborted (part : DownPart)
  | shortHeaderParcel
  | lineParcelHeader (hdr : LineHeader)
  | lineParcelEnd (bytes : List Byte)
  | orderParcelHeader (hdr : OrderHeader)
  | orderParcelEnd (bytes : List Byte)
  | numberParcel (value : Byte) (part : NumberPart)
  | badKindParcel (kind : Byte)
  | returnInSync
  | returnInLost
  | returnSymbolError
  | returnParcelStart
  | returnParcelEnd (bytes : List Byte) (closing : Closing)
  | upLaneParcelSent
  | unknownOrderCode
  | read
  | readWindow
  | windowReadComplete
  | write
  | writeEnabledWord
  | writeWaveforms
  | writeTestMode
  | writeSettleTime
  | writeIdleTickleInterval
  | writeMask
  | readClearCounters
  | readClearEvents
  | startJob
  | stopJob
  | abortJob
  | announce
  | go
  | loadWaves
  | unpark
  | resetOrder
  | pickup
  | landingWriteRaised
  | landingWriteComplete
  | rowFetchComplete
  | filteredTransition (order : EdgeOrder)
  | interpolationTimerExpiry (port : PortIx) (row : RowIx)
  | holdRelease (port : PortIx) (row : RowIx)
  | pdiLevelChange (level : Bool)
  | pdiQualifyExpiry
  | frameSent (port : PortIx)
  | fireTokenSent (port : PortIx)
  | headReturnLaneSync (port : PortIx)
  | headReturnLaneLost (port : PortIx)
  | ack (port : PortIx) (byte : Byte)
  | waveAck (port : PortIx) (byte : Byte)
  | headFault (port : PortIx) (bytes : HeadBytes)
  | loadTimerExpiry (port : PortIx)
  | idleTickleExpiry (port : PortIx)
  | encoderInputChange (channel : Channel) (level : Bool)
  | symbolBoundary (port : PortIx)
deriving DecidableEq, Repr

end Sys2Proof
end

