-- ==== Sys2Proof/WellFormed.lean ====
section
/-! DEFINITION. Which terms are commands that the device can meet, beyond what the operands' types say. -/

namespace Sys2Proof

/-- A BAD_KIND_PARCEL is of kind REPLY or of unknown kind: LINE, ORDER and NUMBER have rows of their own (R4, R6).
A parcel that ended as aborted was open (R2). A LINE, an ORDER and a NUMBER are judged at an end marker that follows
any number of bytes (R5, R6, R9). A byte that begins a head's message of one row of the table belongs to no other row; one that
begins none may arrive under any of them (R174; log 42). Every other operand's range is its type's. -/
def Instr.wellFormed : Instr → Bool
  | .badKindParcel kind => kind != 1 && kind != 2 && kind != 4
  | .downParcelAborted part => part != .between
  | .ack _ byte => byte.toNat / 4 != 20 && byte != 0x60
  | .waveAck _ byte => byte.toNat / 4 != 16 && byte != 0x60
  | .headFault _ bytes => bytes.first.toNat / 4 != 16 && bytes.first.toNat / 4 != 20
  | _ => true

end Sys2Proof
end

