-- ==== Sys2Proof/Machine/State.lean ====
section
/-! DEFINITION. The state of the device, block by block, as plain data, and the state after reset. INVENTORY.md lists
every field with its rule and its reset value. -/

namespace Sys2Proof.Machine

/-! ### Parcels and the Chain Port (file 01) -/

/-- Sync state of a receiving lane (R1, R158). -/
inductive LaneSync where
  | lost
  | inSync
deriving DecidableEq, Repr

/-- Job state (R118). -/
inductive JobState where
  | config
  | run
  | stopping
deriving DecidableEq, Repr

/-- A whole ORDER parcel of the order queue (R13). -/
structure OrderParcel where
  hdr : OrderHeader
  body : List Word
deriving DecidableEq, Repr

/-- An occupied place of the order queue: still arriving, or complete (R14). -/
inductive OrderPlace where
  | arriving (hdr : OrderHeader)
  | complete (order : OrderParcel)
deriving DecidableEq, Repr

/-- Reply statuses (R24). -/
inductive Status where
  | ok
  | badOrder
  | badTable
  | badIndex
  | locked
  | notConfig
  | notRunning
  | queueFull
  | dupTag
  | badSetting
  | noSuchDevice
  | busy
deriving DecidableEq, Repr

/-- A FILLED place of the reply queue: a whole REPLY parcel (R15, R24). `endsReset` marks the reply whose sending lets the
RESET order take effect (R38). -/
structure Reply where
  source : Byte
  tag : Byte
  code : Byte
  status : Status
  body : List Word
  endsReset : Bool
deriving DecidableEq, Repr

/-- The parcel being received on the down lane in, once its header has been examined (R2, R7). `counted`: its failure has been
counted already (R3). `queued`: a copy stands in the order queue. `repeated`: it goes on down the lane. A NUMBER parcel is `held` for
rebuilding until its end, or until a RESET order discards it (R9, R21). -/
inductive DownRx where
  | idle
  | line (hdr : LineHeader) (counted : Bool)
  | order (hdr : OrderHeader) (queued repeated : Bool)
  | number (value : Byte) (held : Bool)
  | refused
deriving DecidableEq, Repr

/-- The parcel being received on return-in (R16): stored in a place of the return buffer, or ignored up to its
closing marker. -/
inductive ReturnRx where
  | idle
  | storing
  | ignoring
deriving DecidableEq, Repr

/-- The two sources of the up-lane arbiter (R17). -/
inductive UpSource where
  | replyQueue
  | returnBuffer
deriving DecidableEq, Repr

/-- What the down lane out is given to send (R7): a start marker with a header, further bytes, and the closing markers.
The model's own output record (log 11). -/
inductive DownTx where
  | start (hdr : List Byte)
  | bytes (bs : List Byte)
  | endMarker
  | abortEnd
deriving DecidableEq, Repr

/-- The Chain Port (R21). The tail flag is `returnSync = lost` (R10). -/
structure ChainPort where
  chainId : Byte
  downSync : LaneSync
  returnSync : LaneSync
  rx : DownRx
  orderQ : List OrderPlace
  replies : List Reply
  returnRx : ReturnRx
  returnQ : List (List Byte)
  upSending : Option UpSource
  upLast : UpSource
  downOut : List DownTx
deriving DecidableEq, Repr

/-- A complete copy of a LINE parcel (R19). -/
structure LineCopy where
  hdr : LineHeader
  body : List Byte
deriving DecidableEq, Repr

/-- The Intake Buffer (R18, R19). -/
structure Intake where
  complete : List LineCopy
  filling : Option LineHeader
deriving DecidableEq, Repr

/-! ### The Order Unit and the tables (files 02, 03) -/

/-- The order in execution (R22): a window read waiting on the Line Store, a LOAD_WAVES, or a RESET whose reply has not been
sent. A window read and a LOAD_WAVES hold a RESERVED reply place (R15). -/
inductive Exec where
  | windowRead (hdr : OrderHeader)
  | loadWaves (hdr : OrderHeader)
  | reset
deriving DecidableEq, Repr

/-- The Order Unit: execution, events, masks, counters (R31, R34) and the installed memory word (R29). -/
structure OrderUnit where
  exec : Option Exec
  devEvents : Word
  headEvents : Vector Word 16
  devMask : Word
  headMasks : Vector Word 16
  devCounts : Vector Word 19
  headCounts : Vector (Vector Word 13) 16
  memory : MemSize
deriving DecidableEq, Repr

/-- Encoder sense (R30). -/
inductive Sense where
  | aLeads
  | bLeads
deriving DecidableEq, Repr

/-- Trigger source (R30). -/
inductive TriggerSource where
  | pdi
  | pitch
  | orderOnly
deriving DecidableEq, Repr

/-- PDI polarity (R30). -/
inductive Polarity where
  | rising
  | falling
deriving DecidableEq, Repr

/-- Table 1, job settings (R30). -/
structure JobSettings where
  pitchRatio : Nat
  sense : Sense
  filter : Nat
  interpolation : Bool
  source : TriggerSource
  polarity : Polarity
  qualify : Nat
  offset : Nat
  gap : Nat
  pitch : Nat
deriving DecidableEq, Repr

/-- Neighbour kind (R47, R48). -/
inductive NeighbourKind where
  | none
  | localPort
  | remote
deriving DecidableEq, Repr

/-- One side's neighbour fields (03, section 3.1). -/
structure Neighbour where
  kind : NeighbourKind
  port : PortIx
  overlap : Nat
deriving DecidableEq, Repr

/-- Test mode (03, section 3.1). -/
inductive TestMode where
  | normal
  | mute
  | flood
  | ladder
  | prbs
deriving DecidableEq, Repr

/-- A head descriptor, table 2 (03, section 3.1). -/
structure HeadDescr where
  enabled : Bool
  plane : Fin 8
  origin : Nat
  rowCount : Nat
  nozzlesPerRow : Nat
  left : Neighbour
  right : Neighbour
  ringBase : Nat
  ringSegments : Nat
  testMode : TestMode
  ladderK : Nat
  keepWet : Nat
  tickleMs : Nat
  settle : Nat
  autoPark : Bool
deriving DecidableEq, Repr

/-- A row descriptor, table 3 (R46). -/
structure RowDescr where
  delay : Nat
  fine : Nat
deriving DecidableEq, Repr

/-- A plane table, table 4: the tone map, and the dither entries that differ from 0 by key 16 a + b (R36). -/
structure PlaneTable where
  tone : Vector Nat 16
  dither : List (Nat × Nat)
deriving DecidableEq, Repr

/-- A waveform segment, table 6 (R162). -/
structure Segment where
  negative : Bool
  magnitude : Nat
  duration : Nat
deriving DecidableEq, Repr

/-- The eight segments of each of a port's four waveforms. -/
abbrev Waveforms := Vector (Vector Segment 8) 4

/-- The writable tables 1 to 6 (R36). `nozzles` holds, for each port, the statuses that differ from GOOD by head column. -/
structure Tables where
  job : JobSettings
  heads : Vector HeadDescr 16
  rows : Vector (Vector RowDescr 4) 16
  planes : Vector PlaneTable 8
  nozzles : Vector (List (Nat × Nat)) 16
  waves : Vector Waveforms 16
deriving DecidableEq, Repr

/-! ### Landing Engine and Line Store (files 04, 05) -/

/-- The landing in flight (section 4.1): the copy, what pickup sampled (R59), and its writes (R75). `lost` gives the lost drops
of the heads whose codes are known (R72). -/
structure Landing where
  copy : LineCopy
  plane : PlaneTable
  nozzles : Vector (List (Nat × Nat)) 16
  heads : Vector HeadDescr 16
  accepting : List PortIx
  toRaise : List PortIx
  incomplete : Nat
  lost : List (PortIx × Nat)
deriving DecidableEq, Repr

/-- Slot state (section 5.3). -/
inductive SlotState where
  | filling
  | landed
deriving DecidableEq, Repr

/-- A slot record (section 5.3). -/
structure Slot where
  tag : Tag
  line : Nat
  state : SlotState
  done : Vector Bool 4
deriving DecidableEq, Repr

/-- An established ring with its held slots, oldest first (R83, R84). Its row set is the rows below `rowCount`. -/
structure Ring where
  base : Nat
  segments : Nat
  slotBytes : Nat
  blockBytes : Nat
  capacity : Nat
  rowCount : Nat
  oldest : Nat
  slots : List Slot
deriving DecidableEq, Repr

/-- A row fetch (R95): row, page line, byte address and length of the row block. `live` is clear when the codes it returns
must be dropped whatever the row's stage is by then (R95, R153 to R156; log 22). -/
structure Fetch where
  port : PortIx
  row : RowIx
  tag : Tag
  line : Nat
  addr : Nat
  len : Nat
  live : Bool
deriving DecidableEq, Repr

/-- A landing write (R75): the head, the slot's address and the bytes of its row blocks. `live` is clear when the landing was
abandoned after the grant (R77). -/
structure LandWrite where
  port : PortIx
  addr : Nat
  bytes : List Byte
  live : Bool
deriving DecidableEq, Repr

/-- A window read waiting at the arbiter (R96). -/
structure WindowRead where
  port : PortIx
  position : Nat
  word : Nat
  count : Nat
deriving DecidableEq, Repr

/-- The request in service (R94). A window read carries the two record words and the slot's address as its grant
resolved them (R97). -/
inductive Service where
  | fetch (f : Fetch)
  | landWrite (w : LandWrite)
  | window (w : WindowRead) (record0 record1 : Word) (addr : Nat)
deriving DecidableEq, Repr

/-- The Line Store but for the memory (R83, R93). -/
structure LineStore where
  rings : Vector (Option Ring) 16
  fetchQ : List Fetch
  fetchRaised : List Fetch
  writeQ : List LandWrite
  window : Option WindowRead
  service : Option Service
deriving DecidableEq, Repr

/-! ### Position Unit and Page Control (files 06, 07) -/

/-- One encoder channel (R99): sampled and filtered level, and the tick since which a differing level has held. -/
structure EncChannel where
  sampled : Bool
  filtered : Bool
  since : Option Nat
deriving DecidableEq, Repr

/-- An armed interpolation timer (R111). -/
structure RowTimer where
  expiry : Nat
  pending : Pos
deriving DecidableEq, Repr

/-- What the Position Unit holds of a row followed in the job: its threshold T' and coarse delay (R106). -/
structure Crossing where
  threshold : Nat
  delay : Nat
deriving DecidableEq, Repr

/-- The Position Unit's state of one row (06, first table). -/
structure RowPosition where
  crossing : Option Crossing
  position : Option Pos
  timer : Option RowTimer
  taken : Bool
deriving DecidableEq, Repr

/-- The Position Unit (06, first table). The edge timer is `min (now - reference) 1,048,575` (R110). -/
structure Position where
  chA : EncChannel
  chB : EncChannel
  filterOld : Option (Nat × Nat)
  pair : Bool × Bool
  debt : Nat
  phase : Nat
  count : Pos
  reference : Option Nat
  interval : Nat
  intervalValid : Bool
  rows : Vector (Vector RowPosition 4) 16
deriving DecidableEq, Repr

/-- State and base of a page record (R124). -/
inductive PageState where
  | announced
  | bound (base : Pos)
  | active (base : Pos)
deriving DecidableEq, Repr

/-- A record of the page queue (R124). -/
structure PageRec where
  tag : Tag
  length : Nat
  state : PageState
  starved : Word
  skipped : Word
deriving DecidableEq, Repr

/-- The last-page report (R131). -/
structure Report where
  tag : Tag
  starved : Word
  skipped : Word
deriving DecidableEq, Repr

/-- Page Control (07, first table). `departed` lists tags in the order their records last left the queue (R62). -/
structure PageControl where
  job : JobState
  queue : List PageRec
  departed : List Tag
  boundLimit : Option Pos
  anchor : Option Pos
  bindingMade : Bool
  qualifier : Option Nat
  pdi : Bool
  report : Option Report
deriving DecidableEq, Repr

/-! ### Row Firing Unit and Head Ports (files 08, 09) -/

/-- A page line (tag, l). -/
structure PageLine where
  tag : Tag
  line : Nat
deriving DecidableEq, Repr

/-- The stage of a row pipeline (R136, R138). A stage filled in a pattern mode holds no codes (R151). -/
inductive Stage where
  | empty
  | waiting (target : Pos) (page : PageLine)
  | fetching (target : Pos) (page : PageLine)
  | staged (target : Pos) (codes : Option (List Nat))
deriving DecidableEq, Repr

/-- The latch as tracked (08, section 8.1). -/
inductive Latch where
  | clear
  | sending (line : Pos)
  | loaded (line : Pos)
deriving DecidableEq, Repr

/-- A row pipeline (08, section 8.1). A hold's release time is `lastFire` plus the MFI in force (R149). -/
structure Pipeline where
  stage : Stage
  missing : Bool
  latch : Latch
  hold : Option Pos
  lastFire : Nat
deriving DecidableEq, Repr

/-- Port states (09, section 9.1). -/
inductive PortState where
  | disabled
  | down
  | unloaded
  | loading
  | ready
  | parked
deriving DecidableEq, Repr

/-- Tokens of the forward lane (R168). -/
inductive Token where
  | fire (row : RowIx)
  | discard (row : RowIx)
  | tickleAll
  | waveform (index : Fin 4) (segments : Vector Segment 8)
deriving DecidableEq, Repr

/-- Symbols of a frame (R166): the start with the position modulo 2^24, a code, and a run of `c + 8` zero codes. -/
inductive FrameSym where
  | start (row : RowIx) (position : Nat)
  | code (c : Nat)
  | zeroRun (c : Nat)
deriving DecidableEq, Repr

/-- The symbol on a forward lane (R166). -/
inductive LaneSym where
  | idle
  | token (t : Token)
  | frame (f : FrameSym)
deriving DecidableEq, Repr

/-- A frame at its port (R170): its symbols not yet sent. `stale`: handed over before the end of its job, so that its completion
only raises DISCARD (R154 to R156; log 22). -/
structure Frame where
  row : RowIx
  stale : Bool
  left : List FrameSym
deriving DecidableEq, Repr

/-- A Head Port (R177). -/
structure HeadPort where
  state : PortState
  sync : LaneSync
  current : LaneSym
  tokens : List Token
  progress : Option Frame
  frames : List Frame
  lastRow : RowIx
  ages : List (Nat × Nat)
  prbs : Vector (BitVec 15) 4
  tickleAt : Option Nat
  silent : Nat
  fault : Option Byte
  loadAt : Option Nat
  acked : Vector Bool 4
deriving DecidableEq, Repr

/-- The device: everything but the queue of commands. -/
structure Device where
  resetPin : Bool
  now : Nat
  freeCount : Nat
  mem : List Host.Cell
  cp : ChainPort
  ib : Intake
  ou : OrderUnit
  tab : Tables
  le : Option Landing
  ls : LineStore
  pu : Position
  pc : PageControl
  rf : Vector (Vector Pipeline 4) 16
  hp : Vector HeadPort 16
deriving DecidableEq, Repr

/-- The machine's state: the device and the commands waiting, first in, first out. -/
structure State where
  dev : Device
  pending : List Instr
deriving DecidableEq, Repr

/-- What stops the machine. -/
inductive Fault where
  /-- A memory transfer reached byte `addr`, which lies outside the installed segments (R81). Raised by LANDING_WRITE_COMPLETE,
  ROW_FETCH_COMPLETE and WINDOW_READ_COMPLETE. Safe: START_JOB's RING_RANGE check (R85) keeps every ring inside
  the installed memory, so that no run of the device meets it (log 9). -/
  | absentMemory (addr : Nat)
deriving DecidableEq, Repr

/-- What has no meaning in the model. -/
inductive Refusal where
  /-- A command without a meaning. Raised by no arm of `exec`. Safe. -/
  | notModelled (mnemonic : String)
deriving DecidableEq, Repr

/-! ### Reset values -/

/-- Defaults of table 1 (R30). -/
def JobSettings.default : JobSettings :=
  { pitchRatio := 65536, sense := .aLeads, filter := 2, interpolation := true, source := .pdi, polarity := .rising,
    qualify := 10, offset := 16, gap := 0, pitch := 1 }

/-- Defaults of a side's neighbour fields (03, section 3.1). -/
def Neighbour.default : Neighbour := { kind := .none, port := 0, overlap := 0 }

/-- Defaults of a head descriptor (03, section 3.1; R41). -/
def HeadDescr.default : HeadDescr :=
  { enabled := false, plane := 0, origin := 0, rowCount := 1, nozzlesPerRow := 16, left := .default, right := .default,
    ringBase := 0, ringSegments := 1, testMode := .normal, ladderK := 2, keepWet := 0, tickleMs := 0, settle := 0,
    autoPark := false }

/-- Defaults of a plane table (R36): tone t maps to floor(t / 4), every dither entry 0. -/
def PlaneTable.default : PlaneTable :=
  { tone := #v[0, 0, 0, 0, 1, 1, 1, 1, 2, 2, 2, 2, 3, 3, 3, 3], dither := [] }

/-- A port's default waveforms (R36). -/
def Waveforms.default : Waveforms :=
  .replicate 4 (.replicate 8 { negative := false, magnitude := 0, duration := 0 })

/-- Defaults of every writable table (R36). -/
def Tables.default : Tables :=
  { job := .default, heads := .replicate 16 .default, rows := .replicate 16 (.replicate 4 { delay := 0, fine := 0 }),
    planes := .replicate 8 .default, nozzles := .replicate 16 [], waves := .replicate 16 .default }

/-- The Order Unit after both resets (R37, R38), the installed memory word given. -/
def OrderUnit.reset (memory : MemSize) : OrderUnit :=
  { exec := none, devEvents := 0, headEvents := .replicate 16 0, devMask := 0, headMasks := .replicate 16 0,
    devCounts := .replicate 19 0, headCounts := .replicate 16 (.replicate 13 0), memory := memory }

/-- The Chain Port after the RESET pin (R21), its output record kept. -/
def ChainPort.reset (downOut : List DownTx) : ChainPort :=
  { chainId := 0, downSync := .lost, returnSync := .lost, rx := .idle, orderQ := [], replies := [], returnRx := .idle,
    returnQ := [], upSending := none, upLast := .replyQueue, downOut := downOut }

/-- The Intake Buffer when empty (R79). -/
def Intake.empty : Intake := { complete := [], filling := none }

/-- The Line Store after both resets (R98). -/
def LineStore.reset : LineStore :=
  { rings := .replicate 16 none, fetchQ := [], fetchRaised := [], writeQ := [], window := none, service := none }

/-- A row of the Position Unit that is not followed (R115). -/
def RowPosition.unfollowed : RowPosition := { crossing := none, position := none, timer := none, taken := false }

/-- A channel whose filtered level is its sampled level (R99). -/
def EncChannel.settled (level : Bool) : EncChannel := { sampled := level, filtered := level, since := none }

/-- The Position Unit after the RESET pin, its inputs at the levels given (R115). -/
def Position.reset (a b : Bool) : Position :=
  { chA := .settled a, chB := .settled b, filterOld := none, pair := (a, b), debt := 0, phase := 0, count := 0,
    reference := none, interval := 0, intervalValid := false, rows := .replicate 16 (.replicate 4 .unfollowed) }

/-- Page Control after both resets, with the PDI level sampled then (R135). -/
def PageControl.reset (pdi : Bool) : PageControl :=
  { job := .config, queue := [], departed := [], boundLimit := none, anchor := none, bindingMade := false,
    qualifier := none, pdi := pdi, report := none }

/-- A pipeline after both resets, with the instant of the reset (R157). -/
def Pipeline.reset (now : Nat) : Pipeline :=
  { stage := .empty, missing := false, latch := .clear, hold := none, lastFire := now }

/-- A Head Port after both resets, with the return lane's sync state (R177). -/
def HeadPort.reset (sync : LaneSync) : HeadPort :=
  { state := .disabled, sync := sync, current := .idle, tokens := [], progress := none, frames := [], lastRow := 3,
    ages := [], prbs := .replicate 4 (BitVec.allOnes 15), tickleAt := none, silent := 0, fault := none, loadAt := none,
    acked := .replicate 4 false }

/-- The device as the release of the RESET pin leaves it (00_scope.md section 5; R21, R37, R98, R115, R135, R157, R177), with the
clock, the straps and the levels of the inputs as given. -/
def Device.afterPin (now freeCount : Nat) (mem : List Host.Cell) (downOut : List DownTx) (straps : MemSize)
    (a b pdi : Bool) : Device :=
  { resetPin := false, now := now, freeCount := freeCount, mem := mem, cp := .reset downOut, ib := .empty,
    ou := .reset straps, tab := .default, le := none, ls := .reset, pu := .reset a b, pc := .reset pdi,
    rf := .replicate 16 (.replicate 4 (.reset now)), hp := .replicate 16 (.reset .lost) }

/-- The machine right after the release of the RESET pin, with no command waiting. The clock's start, the strapped size and
the levels of the inputs are log 5's choices. -/
def State.reset : State :=
  { dev := .afterPin 0 0 [] [] .m512 false false false, pending := [] }

end Sys2Proof.Machine
end

