-- ==== Sys2Proof/Machine/Ops.lean ====
section
/-! DEFINITION. The shared operations over registers and memory: banks by port and row, sparse maps in canonical form, the external
memory, comparison of positions, and how a command acts on the device. -/

namespace Sys2Proof.Machine

/-! ### Banks -/

/-- Entry `i` of a bank. -/
def vget {α : Type} {n : Nat} (v : Vector α n) (i : Fin n) : α := v[i.val]

/-- The bank with entry `i` replaced. -/
def vset {α : Type} {n : Nat} (v : Vector α n) (i : Fin n) (x : α) : Vector α n := v.set i.val x

/-- The bank with `f` applied to entry `i`. -/
def vmod {α : Type} {n : Nat} (v : Vector α n) (i : Fin n) (f : α → α) : Vector α n := vset v i (f (vget v i))

/-- The bank with `f` applied to every entry. -/
def vmap {α : Type} {n : Nat} (f : α → α) (v : Vector α n) : Vector α n := ⟨⟨v.toList.map f⟩, by simp⟩

/-- The entry of a port's row. -/
def rget {α : Type} (v : Vector (Vector α 4) 16) (p : PortIx) (r : RowIx) : α := vget (vget v p) r

/-- The bank with `f` applied to the entry of a port's row. -/
def rmod {α : Type} (v : Vector (Vector α 4) 16) (p : PortIx) (r : RowIx) (f : α → α) : Vector (Vector α 4) 16 :=
  vmod v p (fun u => vmod u r f)

/-- The bank with `f` applied to every row. -/
def mapRows {α : Type} (f : α → α) (v : Vector (Vector α 4) 16) : Vector (Vector α 4) 16 := vmap (vmap f) v

/-- The sixteen ports in port order. -/
def allPorts : List PortIx := [0, 1, 2, 3, 4, 5, 6, 7, 8, 9, 10, 11, 12, 13, 14, 15]

/-- A head's four rows in row order. -/
def allRows : List RowIx := [0, 1, 2, 3]

/-- The 64 rows in port order and, within a port, in row order (R93). -/
def allPortRows : List (PortIx × RowIx) := allPorts.flatMap (fun p => allRows.map (fun r => (p, r)))

/-! ### Sparse maps: keys strictly rising -/

/-- The value listed under a key. -/
def lookup {α : Type} (k : Nat) : List (Nat × α) → Option α
  | [] => none
  | (a, x) :: rest => if a = k then some x else lookup k rest

/-- The map with `x` listed under `k`. -/
def insertKey {α : Type} (k : Nat) (x : α) : List (Nat × α) → List (Nat × α)
  | [] => [(k, x)]
  | (a, y) :: rest => if k < a then (k, x) :: (a, y) :: rest else if k = a then (k, x) :: rest else (a, y) :: insertKey k x rest

/-- The map with nothing listed under `k`. -/
def eraseKey {α : Type} (k : Nat) : List (Nat × α) → List (Nat × α)
  | [] => []
  | (a, y) :: rest => if a = k then rest else (a, y) :: eraseKey k rest

/-- The keys rise strictly and stay above `low` where one is given. -/
def risingFrom {α : Type} : Option Nat → List (Nat × α) → Bool
  | _, [] => true
  | low, (a, _) :: rest => (low.all (· < a)) && risingFrom (some a) rest

/-- The canonical form of a sparse map: keys strictly rising. -/
def rising {α : Type} (m : List (Nat × α)) : Bool := risingFrom none m

/-- Number held under a key, 0 where none is listed. -/
def numAt (m : List (Nat × Nat)) (k : Nat) : Nat := (lookup k m).getD 0

/-- Store a number under a key; storing 0 removes the entry. -/
def numPut (m : List (Nat × Nat)) (k x : Nat) : List (Nat × Nat) := if x = 0 then eraseKey k m else insertKey k x m

/-! ### The external memory (R81) -/

/-- The canonical form of the memory: addresses strictly rising. A byte not listed has been written by no landing write and reads
as the free value of its address, never as a listed value, so that no entry is redundant (log 7). -/
abbrev Memory.wf (m : List Host.Cell) : Prop := rising m = true

/-- The byte at an address. -/
def readByte (m : List Host.Cell) (a : Nat) : Byte := (lookup a m).getD (Config.powerOnByte a)

/-- The `n` bytes from an address. -/
def readBytes (m : List Host.Cell) (a : Nat) : Nat → List Byte
  | 0 => []
  | n + 1 => readByte m a :: readBytes m (a + 1) n

/-- The memory with bytes stored from an address on. -/
def writeBytes (m : List Host.Cell) (a : Nat) : List Byte → List Host.Cell
  | [] => m
  | b :: bs => writeBytes (insertKey a b m) (a + 1) bs

/-- The memory after a landing write that a reset abandoned: each byte is stored or not as the free value says (R98). -/
def writePartly (use : Nat) (m : List Host.Cell) (a i : Nat) : List Byte → List Host.Cell
  | [] => m
  | b :: bs => writePartly use (if Config.partialByte use i then insertKey a b m else m) (a + 1) (i + 1) bs

/-- Installed segments of 1 MiB (R29). -/
def segmentsOf : MemSize → Nat
  | .m512 => 512
  | .m1024 => 1024
  | .m2048 => 2048

/-- Whether the `n` bytes from `a` lie in the installed memory (R81). -/
def installed (size : MemSize) (a n : Nat) : Bool := a + n ≤ segmentsOf size * Config.segmentBytes

/-! ### Positions and times -/

/-- `a` stands ahead of `b`: their difference modulo 2^32 is 1 to 2,147,483,647 (R105). -/
def ahead (a b : Pos) : Bool := 0 < (a - b).toNat && (a - b).toNat ≤ 2147483647

/-- `a` stands behind `b` (R105). -/
def behind (a b : Pos) : Bool := 2147483648 ≤ (a - b).toNat

/-- `a` stands at or behind `b`. -/
def atOrBehind (a b : Pos) : Bool := !ahead a b

/-- The later of two positions. -/
def later (a b : Pos) : Pos := if ahead a b then a else b

/-- Whether a timer is armed and its expiry has come. -/
def due (now : Nat) (t : Option Nat) : Bool := t.any (· ≤ now)

/-! ### Fields read by many blocks -/

/-- Descriptor of a port (table 2). -/
def Device.head (d : Device) (p : PortIx) : HeadDescr := vget d.tab.heads p

/-- The Head Port of a port. -/
def Device.port (d : Device) (p : PortIx) : HeadPort := vget d.hp p

/-- The pipeline of a row. -/
def Device.pipe (d : Device) (p : PortIx) (r : RowIx) : Pipeline := rget d.rf p r

/-- The Position Unit's state of a row. -/
def Device.rowPos (d : Device) (p : PortIx) (r : RowIx) : RowPosition := rget d.pu.rows p r

/-- The device with a port changed. -/
def Device.modPort (d : Device) (p : PortIx) (f : HeadPort → HeadPort) : Device := { d with hp := vmod d.hp p f }

/-- The device with a pipeline changed. -/
def Device.modPipe (d : Device) (p : PortIx) (r : RowIx) (f : Pipeline → Pipeline) : Device := { d with rf := rmod d.rf p r f }

/-- The device with a row of the Position Unit changed. -/
def Device.modRowPos (d : Device) (p : PortIx) (r : RowIx) (f : RowPosition → RowPosition) : Device :=
  { d with pu := { d.pu with rows := rmod d.pu.rows p r f } }

/-- The tail flag is set while return-in is LOST (R10). -/
def Device.tailFlag (d : Device) : Bool := d.cp.returnSync == .lost

/-- A job is active: RUN or STOPPING (R101, R118). -/
def Device.jobActive (d : Device) : Bool := d.pc.job != .config

/-- A row is enabled while its head is and its number is below the row count (R42). -/
def Device.rowEnabled (d : Device) (p : PortIx) (r : RowIx) : Bool := (d.head p).enabled && r.val < (d.head p).rowCount

/-- A row in use prints while its port is READY (R136). -/
def Device.printing (d : Device) (p : PortIx) (r : RowIx) : Bool := d.rowEnabled p r && (d.port p).state == .ready

/-- The enabled rows in port and row order. -/
def Device.enabledRows (d : Device) : List (PortIx × RowIx) := allPortRows.filter (fun pr => d.rowEnabled pr.1 pr.2)

/-- NORMAL and MUTE are the fetch modes (R152). -/
def TestMode.fetches : TestMode → Bool
  | .normal => true
  | .mute => true
  | .flood => false
  | .ladder => false
  | .prbs => false

/-- The longest of a port's waveform durations, in waveform units (R163). -/
def longestWaveform (w : Waveforms) : Nat :=
  (w.toList.map (fun segs => (segs.toList.map (·.duration)).sum)).foldl max 0

/-- The minimum fire interval of a port in ticks: 5 (D + s) (R163). -/
def Device.mfi (d : Device) (p : PortIx) : Nat :=
  Config.ticksPerWaveformUnit * (longestWaveform (vget d.tab.waves p) + (d.head p).settle)

/-! ### How a command acts -/

/-- A command that completes on the device: while the RESET pin is asserted every block is held at its reset state and
nothing but the pin acts (R37; log 4). -/
def State.act (s : State) (f : Device → Device) : Host.Outcome State Fault Refusal :=
  .next { s with dev := if s.dev.resetPin then s.dev else f s.dev }

end Sys2Proof.Machine
end

