-- ==== Sys2Proof/Machine/Flags.lean ====
section
/-! DEFINITION. Events, masks, ALERT and the counters (02, sections 2.4 and 2.5). -/

namespace Sys2Proof.Machine

/-- Device events (R31); HEAD_ATTENTION, bit 0, is derived. -/
inductive DevEvent where
  | downLinkLost
  | numberIgnored
  | returnOverflow
  | intakeOverflow
  | clampedWrite
  | jobStopped
  | pageDone
  | triggerWithoutPage
  | missedPitch
  | earlyTrigger
  | encoderError
  | reverseLimit
deriving DecidableEq, Repr

/-- Bit of a device event (02, section 2.4). -/
def DevEvent.bit : DevEvent → Nat
  | .downLinkLost => 1
  | .numberIgnored => 2
  | .returnOverflow => 3
  | .intakeOverflow => 4
  | .clampedWrite => 5
  | .jobStopped => 6
  | .pageDone => 7
  | .triggerWithoutPage => 8
  | .missedPitch => 9
  | .earlyTrigger => 10
  | .encoderError => 11
  | .reverseLimit => 12

/-- Head events (R31). -/
inductive HeadEvent where
  | late
  | overrun
  | starved
  | skipped
  | headLaneLost
  | headSilent
  | headFault
deriving DecidableEq, Repr

/-- Bit of a head event (02, section 2.4). -/
def HeadEvent.bit : HeadEvent → Nat
  | .late => 0
  | .overrun => 1
  | .starved => 2
  | .skipped => 3
  | .headLaneLost => 4
  | .headSilent => 5
  | .headFault => 6

/-- Bits assigned in the device words, HEAD_ATTENTION included. -/
def devEventBits : Word := 0x1FFF

/-- Bits assigned in the head words. -/
def headEventBits : Word := 0x7F

/-- Device counters (R34). -/
inductive DevCounter where
  | downCrcErrors
  | downBadParcels
  | downAborted
  | downSymbolErrors
  | downLinkLosses
  | busyReplies
  | ordersDropped
  | repliesDropped
  | returnOverflows
  | returnErrors
  | intakeOverflows
  | unannounced
  | encoderErrors
  | reverseLimits
  | pagesDone
  | earlyTriggers
  | triggersWithoutPage
  | missedPitches
  | clampedWrites
deriving DecidableEq, Repr

/-- Index of a device counter in table 7 (R34). -/
def DevCounter.index : DevCounter → Fin 19
  | .downCrcErrors => 0
  | .downBadParcels => 1
  | .downAborted => 2
  | .downSymbolErrors => 3
  | .downLinkLosses => 4
  | .busyReplies => 5
  | .ordersDropped => 6
  | .repliesDropped => 7
  | .returnOverflows => 8
  | .returnErrors => 9
  | .intakeOverflows => 10
  | .unannounced => 11
  | .encoderErrors => 12
  | .reverseLimits => 13
  | .pagesDone => 14
  | .earlyTriggers => 15
  | .triggersWithoutPage => 16
  | .missedPitches => 17
  | .clampedWrites => 18

/-- Head counters (R34). -/
inductive HeadCounter where
  | landed
  | outOfPage
  | stale
  | late
  | overrun
  | lostDrops
  | partialSpan
  | fired
  | starved
  | skipped
  | laneLosses
  | silences
  | faults
deriving DecidableEq, Repr

/-- Index of a head counter within its port's block (R34). -/
def HeadCounter.index : HeadCounter → Fin 13
  | .landed => 0
  | .outOfPage => 1
  | .stale => 2
  | .late => 3
  | .overrun => 4
  | .lostDrops => 5
  | .partialSpan => 6
  | .fired => 7
  | .starved => 8
  | .skipped => 9
  | .laneLosses => 10
  | .silences => 11
  | .faults => 12

/-- Counting saturates at 4,294,967,295 (R34; 00_scope.md 4.5). -/
def satAdd (w : Word) (n : Nat) : Word := BitVec.ofNat 32 (min (w.toNat + n) 4294967295)

/-- Set a device event (R31). -/
def Device.setEvent (d : Device) (e : DevEvent) : Device :=
  { d with ou := { d.ou with devEvents := d.ou.devEvents ||| BitVec.ofNat 32 (2 ^ e.bit) } }

/-- Set a head event (R31). -/
def Device.setHeadEvent (d : Device) (p : PortIx) (e : HeadEvent) : Device :=
  { d with ou := { d.ou with headEvents := vmod d.ou.headEvents p (· ||| BitVec.ofNat 32 (2 ^ e.bit)) } }

/-- Count a device counter by `n` (R34). -/
def Device.count (d : Device) (c : DevCounter) (n : Nat) : Device :=
  { d with ou := { d.ou with devCounts := vmod d.ou.devCounts c.index (satAdd · n) } }

/-- Count a head counter by `n` (R34). -/
def Device.countHead (d : Device) (p : PortIx) (c : HeadCounter) (n : Nat) : Device :=
  { d with ou := { d.ou with headCounts := vmod d.ou.headCounts p (fun b => vmod b c.index (satAdd · n)) } }

/-- HEAD_ATTENTION: some head event word holds a set bit that its mask leaves clear (R32). -/
def OrderUnit.headAttention (u : OrderUnit) : Bool :=
  allPorts.any (fun p => vget u.headEvents p &&& ~~~ vget u.headMasks p != 0)

/-- The device event word as read, HEAD_ATTENTION included (R32). -/
def OrderUnit.devEventWord (u : OrderUnit) : Word := u.devEvents ||| (if u.headAttention then 1 else 0)

/-- ALERT: the device event word holds a set bit that the device mask leaves clear (R32). -/
def OrderUnit.alert (u : OrderUnit) : Bool := u.devEventWord &&& ~~~ u.devMask != 0

/-- The ALERT output; released while the RESET pin is asserted (R32, R37). -/
def Device.alert (d : Device) : Bool := !d.resetPin && d.ou.alert

end Sys2Proof.Machine
end

