-- ==== Sys2Proof/Machine/Operands.lean ====
section
/-! DEFINITION. Every operand form: parcel layouts, CRC and validity (01, sections 1.2 to 1.6), body words of the orders
(02, section 2.1.1), and the clamping of a written field (R28). -/

namespace Sys2Proof.Machine

/-! ### Bytes and words, most significant byte first (00_scope.md 4.4) -/

/-- The four bytes of a word. -/
def wordBytes (w : Word) : List Byte := [w.extractLsb' 24 8, w.extractLsb' 16 8, w.extractLsb' 8 8, w.extractLsb' 0 8]

/-- The word of four bytes. -/
def wordOf (a b c e : Byte) : Word := a ++ b ++ c ++ e

/-- The first `n` words of a run of bytes. -/
def takeWords : Nat → List Byte → List Word
  | n + 1, a :: b :: c :: e :: rest => wordOf a b c e :: takeWords n rest
  | _, _ => []

/-! ### CRC (R3) -/

/-- One bit of the division by 0x04C11DB7. -/
def crcBit (reg : Word) : Word := if reg.msb then (reg <<< 1) ^^^ 0x04C11DB7 else reg <<< 1

/-- `n` bits of the division. -/
def crcBits : Nat → Word → Word
  | 0, reg => reg
  | n + 1, reg => crcBits n (crcBit reg)

/-- The register after a byte, most significant bit first. -/
def crcByte (reg : Word) (b : Byte) : Word := crcBits 8 (reg ^^^ (b ++ (0 : BitVec 24)))

/-- The CRC of header and body: register preset to all ones, final remainder inverted (R3). -/
def crc32 (bytes : List Byte) : Word := ~~~ (bytes.foldl crcByte (BitVec.allOnes 32))

/-- The four CRC bytes that follow a header and body. -/
def crcBytes (bytes : List Byte) : List Byte := wordBytes (crc32 bytes)

/-! ### Parcel layouts (R4) -/

/-- The header bytes of a LINE parcel. -/
def lineHeaderBytes (h : LineHeader) : List Byte :=
  [1, h.plane, h.tag, h.line.extractLsb' 16 8, h.line.extractLsb' 8 8, h.line.extractLsb' 0 8,
    h.firstColumn.extractLsb' 8 8, h.firstColumn.extractLsb' 0 8, h.countMinus1.extractLsb' 8 8,
    h.countMinus1.extractLsb' 0 8, h.depth]

/-- The header bytes of an ORDER parcel. -/
def orderHeaderBytes (h : OrderHeader) : List Byte := [2, h.dest, h.tag, h.code, h.words]

/-- The header bytes of a NUMBER parcel. -/
def numberHeaderBytes (v : Byte) : List Byte := [4, v]

/-- Reply status codes (R24). -/
def Status.code : Status → Byte
  | .ok => 0
  | .badOrder => 1
  | .badTable => 2
  | .badIndex => 3
  | .locked => 4
  | .notConfig => 5
  | .notRunning => 6
  | .queueFull => 7
  | .dupTag => 8
  | .badSetting => 9
  | .noSuchDevice => 10
  | .busy => 11

/-- A REPLY parcel as it travels, with its freshly computed CRC (R3, R4). -/
def Reply.parcel (r : Reply) : List Byte :=
  let front := [3, r.source, r.tag, r.code, r.status.code, BitVec.ofNat 8 r.body.length] ++ r.body.flatMap wordBytes
  front ++ crcBytes front

/-! ### LINE parcels (R5, R18) -/

/-- Pixel count of a LINE parcel. -/
def pixelCount (h : LineHeader) : Nat := h.countMinus1.toNat + 1

/-- Body length in bytes: ceil(count x depth / 8) (R5). -/
def lineBodyBytes (h : LineHeader) : Nat := (pixelCount h * h.depth.toNat + 7) / 8

/-- Validity of a LINE header (R5). -/
def lineHeaderValid (h : LineHeader) : Bool :=
  h.plane.toNat ≤ 7 && h.line.toNat ≤ 16777214 && (h.depth == 1 || h.depth == 2 || h.depth == 4) &&
    h.firstColumn.toNat + pixelCount h ≤ 65536

/-- Intake Buffer bytes of a parcel: 16 plus its body, rounded up to a multiple of 16 (R18). -/
def intakeSpace (h : LineHeader) : Nat := (16 + lineBodyBytes h + 15) / 16 * 16

/-- How the bytes behind a header are judged at the end marker: by length first, then by CRC (R3, R5, R6; log 12). -/
inductive EndJudgement where
  | good
  | badLength
  | badCrc
deriving DecidableEq, Repr

/-- Judgement of the bytes that followed a header of a parcel whose body has `bodyLen` bytes. -/
def judgeEnd (hdr : List Byte) (bodyLen : Nat) (bytes : List Byte) : EndJudgement :=
  if bytes.length ≠ bodyLen + 4 then .badLength
  else if bytes.drop bodyLen = crcBytes (hdr ++ bytes.take bodyLen) then .good else .badCrc

/-! ### ORDER parcels (R6, R23) -/

/-- Validity of an ORDER header (R6). -/
def orderHeaderValid (h : OrderHeader) : Bool := h.dest.toNat ≤ 15 && h.words.toNat ≤ 65

/-- Order codes that name an order (02, section 2.1). -/
def knownCode (code : Byte) : Bool := 1 ≤ code.toNat && code.toNat ≤ 11

/-- Whether a body length fits its order code (R23). -/
def bodyFits (code : Byte) (words : Nat) : Bool :=
  match code.toNat with
  | 1 => words == 2
  | 2 => 2 ≤ words && words ≤ 65
  | 3 => words == 2
  | 4 => words == 0
  | 5 => words == 0
  | 6 => words == 0
  | 7 => words == 1
  | 8 => words == 0
  | 9 => words == 1
  | 10 => words == 1
  | 11 => words == 0
  | _ => false

/-- Word `i` of an order's body. -/
def OrderParcel.word (o : OrderParcel) (i : Nat) : Word := o.body.getD i 0

/-- Table number of READ, WRITE and READ_CLEAR (02, section 2.1.1). -/
def OrderParcel.table (o : OrderParcel) : Nat := ((o.word 0).extractLsb' 24 8).toNat

/-- Start index of READ, WRITE and READ_CLEAR. -/
def OrderParcel.start (o : OrderParcel) : Nat := ((o.word 0).extractLsb' 0 24).toNat

/-- Count of READ and READ_CLEAR, the whole word as a number. -/
def OrderParcel.count (o : OrderParcel) : Nat := (o.word 1).toNat

/-- Data words of a WRITE. -/
def OrderParcel.data (o : OrderParcel) : List Word := o.body.drop 1

/-- Page tag of ANNOUNCE. -/
def OrderParcel.pageTag (o : OrderParcel) : Tag := (o.word 0).extractLsb' 24 8

/-- Page length of ANNOUNCE. -/
def OrderParcel.pageLength (o : OrderParcel) : Nat := ((o.word 0).extractLsb' 0 24).toNat

/-- Whether the port mask of LOAD_WAVES or UNPARK names a port. -/
def OrderParcel.names (o : OrderParcel) (p : PortIx) : Bool := (o.word 0).getLsbD p.val

/-! ### Parcels of return-in (R16) -/

/-- A parcel of return-in is complete: kind REPLY, source 0-15, body 0-64 words, length and CRC right (R16). -/
def returnParcelGood (bytes : List Byte) : Bool :=
  let words := (bytes.getD 5 0).toNat
  bytes.length == 10 + 4 * words && bytes.getD 0 0 == 3 && (bytes.getD 1 0).toNat ≤ 15 && words ≤ 64 &&
    bytes.drop (6 + 4 * words) == crcBytes (bytes.take (6 + 4 * words))

/-! ### Messages of a head on its return lane (R174) -/

/-- The three messages of a head. -/
inductive HeadMessage where
  | ack (row : RowIx)
  | waveAck (index : Fin 4)
  | fault (code : Byte)
deriving DecidableEq, Repr

/-- The message of bytes that arrived between idle symbols: 0x40 + row, 0x50 + index, or 0x60 and the code byte. Any other byte begins
no message, and 0x60 without a code byte is none (R174). -/
def headMessage (first : Byte) (code : Option Byte) : Option HeadMessage :=
  if first.toNat / 4 = 16 then some (.ack (Fin.ofNat 4 first.toNat))
  else if first.toNat / 4 = 20 then some (.waveAck (Fin.ofNat 4 first.toNat))
  else if first = 0x60 then code.map .fault
  else none

/-! ### Clamping (R28) -/

/-- A written value brought into its field's range. -/
def clamp (lo hi v : Nat) : Nat := max lo (min hi v)

/-- A written value rounded down to a step, then brought into its range. -/
def clampStep (step lo hi v : Nat) : Nat := clamp lo hi (v / step * step)

end Sys2Proof.Machine
end

