-- ==== Sys2Proof/Machine/LineStoreOps.lean ====
section
/-! DEFINITION. The Line Store: slots and rings, landing order, done notices, release, removal, and the memory arbiter; with the
reply queue and the up-lane arbiter that every command ends with (files 01, 02, 05). -/

namespace Sys2Proof.Machine

/-! ### Replies (R13, R15, R24) -/

/-- Reply places RESERVED by the order in execution (R15); RESET's place is already FILLED (R38). -/
def Exec.reserved : Option Exec → Nat
  | some (.windowRead _) => 1
  | some (.loadWaves _) => 1
  | some .reset => 0
  | none => 0

/-- Reply places FREE (R15). -/
def Device.freePlaces (d : Device) : Nat := Config.replyPlaces - (d.cp.replies.length + Exec.reserved d.ou.exec)

/-- A place becomes FILLED with the reply to an order (R15, R24). -/
def Device.pushReply (d : Device) (h : OrderHeader) (status : Status) (body : List Word) (endsReset : Bool) : Device :=
  { d with cp := { d.cp with replies := d.cp.replies ++
      [{ source := d.cp.chainId, tag := h.tag, code := h.code, status := status, body := body, endsReset := endsReset }] } }

/-- The Order Unit fills the reply of an order (R22, R24). -/
def Device.reply (d : Device) (h : OrderHeader) (status : Status) (body : List Word) : Device := d.pushReply h status body false

/-- The order in execution produces its reply and leaves execution (R22). -/
def Device.finishExec (d : Device) (h : OrderHeader) (status : Status) (body : List Word) : Device :=
  ({ d with ou := { d.ou with exec := none } }).reply h status body

/-- The up-lane arbiter chooses whenever the output is free (R17). -/
def Device.upArbitrate (d : Device) : Device :=
  match d.cp.upSending with
  | some _ => d
  | none =>
    match d.cp.replies.isEmpty, d.cp.returnQ.isEmpty with
    | true, true => d
    | false, true => { d with cp := { d.cp with upSending := some .replyQueue } }
    | true, false => { d with cp := { d.cp with upSending := some .returnBuffer } }
    | false, false =>
      { d with cp := { d.cp with upSending := some (match d.cp.upLast with
          | .replyQueue => .returnBuffer
          | .returnBuffer => .replyQueue) } }

/-! ### Landing order (R62) -/

/-- Rank of a tag: tags of the page queue in queue order, behind every tag held by no record, which stand in the order
in which their records last left the queue (R62). -/
def PageControl.rank (pc : PageControl) (tag : Tag) : Nat × Nat :=
  match pc.queue.findIdx? (fun r => r.tag == tag) with
  | some i => (1, i)
  | none => (0, ((pc.departed.findIdx? (· == tag)).map (· + 1)).getD 0)

/-- Page line `a` stands strictly before page line `b` in landing order (R62). -/
def PageControl.before (pc : PageControl) (a b : PageLine) : Bool :=
  if a.tag = b.tag then a.line < b.line
  else
    let ra := pc.rank a.tag
    let rb := pc.rank b.tag
    ra.1 < rb.1 || (ra.1 == rb.1 && ra.2 < rb.2)

/-! ### Rings (R82 to R89) -/

/-- Slot bytes of a head with `n` nozzles: 64 x ceil(n / 256) (R82). -/
def slotBytesOf (n : Nat) : Nat := 64 * ((n + 255) / 256)

/-- Nozzle count of a head (R43). -/
def HeadDescr.nozzles (h : HeadDescr) : Nat := h.rowCount * h.nozzlesPerRow

/-- Capacity of a ring (R84). -/
def capacityOf (segments slotBytes : Nat) : Nat := min Config.maxCapacity (segments * Config.segmentBytes / slotBytes)

/-- The ring a START_JOB establishes for an enabled head, empty (R83). -/
def Ring.establish (h : HeadDescr) : Ring :=
  { base := h.ringBase, segments := h.ringSegments, slotBytes := slotBytesOf h.nozzles, blockBytes := h.nozzlesPerRow / 4,
    capacity := capacityOf h.ringSegments (slotBytesOf h.nozzles), rowCount := h.rowCount, oldest := 0, slots := [] }

/-- Memory position of the slot at ring position `i` (R84). -/
def Ring.memPosition (g : Ring) (i : Nat) : Nat := (g.oldest + i) % g.capacity

/-- First byte of the slot at ring position `i` (R84). -/
def Ring.slotAddr (g : Ring) (i : Nat) : Nat := g.base * Config.segmentBytes + g.memPosition i * g.slotBytes

/-- The page line of a slot. -/
def Slot.page (t : Slot) : PageLine := { tag := t.tag, line := t.line }

/-- A slot's rows-done set equals the ring's row set (R89). -/
def Slot.allDone (t : Slot) (rowCount : Nat) : Bool := allRows.all (fun r => vget t.done r == decide (r.val < rowCount))

/-- The oldest slot may be released (R89). -/
def Slot.releasable (t : Slot) (rowCount : Nat) : Bool := t.state == .landed && t.allDone rowCount

/-- Judge a ring for release: slots leave from the oldest end while they are LANDED with a full rows-done set (R89). -/
def Ring.release (g : Ring) : Ring :=
  let rest := g.slots.dropWhile (·.releasable g.rowCount)
  { g with slots := rest, oldest := g.memPosition (g.slots.length - rest.length) }

/-- Append a slot in FILLING at the newest end (R87). -/
def Ring.append (g : Ring) (tag : Tag) (line : Nat) : Ring :=
  { g with slots := g.slots ++ [{ tag := tag, line := line, state := .filling, done := .replicate 4 false }] }

/-- Mark row `r` done in every held slot at or before a page line (R88). -/
def Ring.mark (g : Ring) (pc : PageControl) (r : RowIx) (pl : PageLine) : Ring :=
  { g with slots := g.slots.map (fun t => if pc.before pl t.page then t else { t with done := vset t.done r true }) }

/-- The slot of a page line becomes LANDED (R76). -/
def Ring.land (g : Ring) (pl : PageLine) : Ring :=
  { g with slots := g.slots.map (fun t => if t.page = pl then { t with state := .landed } else t) }

/-- Remove the slots of the tags given (R91). -/
def Ring.removeTags (g : Ring) (tags : List Tag) : Ring := { g with slots := g.slots.filter (fun t => !tags.contains t.tag) }

/-- Empty a ring, its oldest memory position 0 (R92). -/
def Ring.flush (g : Ring) : Ring := { g with oldest := 0, slots := [] }

/-- Ring position of a page line's slot. -/
def Ring.find (g : Ring) (pl : PageLine) : Option Nat := g.slots.findIdx? (fun t => t.page == pl)

/-- The ring of a head. -/
def Device.ring (d : Device) (p : PortIx) : Option Ring := vget d.ls.rings p

/-- Change an established ring. -/
def Device.modRing (d : Device) (p : PortIx) (f : Ring → Ring) : Device :=
  { d with ls := { d.ls with rings := vmod d.ls.rings p (Option.map f) } }

/-- Change every established ring. -/
def Device.modRings (d : Device) (f : Ring → Ring) : Device := { d with ls := { d.ls with rings := vmap (Option.map f) d.ls.rings } }

/-- A done notice for a row through a page line: marking, then release (R88, R89). -/
def Device.doneNotice (d : Device) (p : PortIx) (r : RowIx) (pl : PageLine) : Device :=
  d.modRing p (fun g => (g.mark d.pc r pl).release)

/-! ### Abandoning a landing, flushing (R77, R91, R92) -/

/-- A landing write in service completes at the memory and changes no slot (R77). -/
def Service.forgetLanding : Service → Service
  | .fetch f => .fetch f
  | .landWrite w => .landWrite { w with live := false }
  | .window w a b c => .window w a b c

/-- The landing in flight is abandoned: ungranted writes withdrawn, the copy and its space given back, nothing counted (R77). Its
FILLING slots go with the flush or the removal that abandons it. -/
def Device.abandonLanding (d : Device) : Device :=
  { d with le := none, ls := { d.ls with writeQ := [], service := d.ls.service.map Service.forgetLanding } }

/-- A row fetch's data will be dropped. -/
def Fetch.kill (f : Fetch) : Fetch := { f with live := false }

/-- The fetches of rows that `sel` picks, waiting or in service, will have their data dropped (R153, R154 to R156). -/
def LineStore.killFetches (ls : LineStore) (sel : PortIx → RowIx → Bool) : LineStore :=
  let kill := fun f : Fetch => if sel f.port f.row then f.kill else f
  { ls with
    fetchQ := ls.fetchQ.map kill
    fetchRaised := ls.fetchRaised.map kill
    service := ls.service.map (fun v => match v with
      | .fetch f => .fetch (kill f)
      | .landWrite w => .landWrite w
      | .window w a b c => .window w a b c) }

/-- A flush: every ring empty, waiting row fetches and landing writes withdrawn, a landing in flight abandoned (R92). -/
def Device.flush (d : Device) : Device :=
  let d := (d.modRings Ring.flush).abandonLanding
  { d with ls := { d.ls with fetchQ := [], fetchRaised := [] } }

/-! ### The memory arbiter (R93, R94, R97) -/

/-- Port and row order of fetches raised at one instant (R93). -/
def Fetch.key (f : Fetch) : Nat := 4 * f.port.val + f.row.val

/-- Put a fetch among those raised at the same instant. -/
def insertFetch (f : Fetch) : List Fetch → List Fetch
  | [] => [f]
  | g :: rest => if f.key < g.key then f :: g :: rest else g :: insertFetch f rest

/-- The row unit raises a fetch of a row block of the slot at ring position `i` (R95, R138). -/
def Device.raiseFetch (d : Device) (p : PortIx) (r : RowIx) (pl : PageLine) (g : Ring) (i : Nat) : Device :=
  let addr := g.slotAddr i + r.val * g.blockBytes
  let f : Fetch := { port := p, row := r, tag := pl.tag, line := pl.line, addr := addr, len := g.blockBytes, live := true }
  { d with ls := { d.ls with fetchRaised := insertFetch f d.ls.fetchRaised } }

/-- The fetches raised in the step join the queue (R93). -/
def Device.joinFetches (d : Device) : Device :=
  { d with ls := { d.ls with fetchQ := d.ls.fetchQ ++ d.ls.fetchRaised, fetchRaised := [] } }

/-- Record word 0 of a slot's window (05, section 5.7). -/
def recordWord0 (t : Slot) : Word := t.tag ++ BitVec.ofNat 24 t.line

/-- Record word 1 of a slot's window: slots held, state, rows-done set. -/
def recordWord1 (g : Ring) (t : Slot) : Word :=
  BitVec.ofNat 16 g.slots.length ++ (if t.state = .landed then (1 : Byte) else 0) ++
    BitVec.ofNat 8 (allRows.map (fun r => if vget t.done r then 2 ^ r.val else 0)).sum

/-- Grant of a window read: its ring position is resolved now; without a slot there the READ is answered with
BAD_INDEX at once (R97). -/
def Device.grantWindow (d : Device) (w : WindowRead) : Device :=
  let d := { d with ls := { d.ls with window := none } }
  match (d.ring w.port).bind (fun g => (g.slots[w.position]?).map (fun t => (g, t))) with
  | some (g, t) =>
    { d with ls := { d.ls with service := some (.window w (recordWord0 t) (recordWord1 g t) (g.slotAddr w.position)) } }
  | none =>
    match d.ou.exec with
    | some (.windowRead h) => d.finishExec h .badIndex []
    | _ => d

/-- With the port free, the oldest row fetch is granted, else the oldest landing write, else the window read (R94). -/
def Device.grant (d : Device) : Device :=
  match d.ls.service with
  | some _ => d
  | none =>
    match d.ls.fetchQ with
    | f :: fs => { d with ls := { d.ls with fetchQ := fs, service := some (.fetch f) } }
    | [] =>
      match d.ls.writeQ with
      | w :: ws => { d with ls := { d.ls with writeQ := ws, service := some (.landWrite w) } }
      | [] =>
        match d.ls.window with
        | some w => d.grantWindow w
        | none => d

/-- What every command ends with: raised fetches join their queue, and both arbiters choose (R17, R93, R94). The fetches that a completion
raises take part in the choice made at that completion (log 46). -/
def Device.settle (d : Device) : Device := d.joinFetches.grant.upArbitrate

/-- A command that completes on the device and ends with the arbiters' choices. -/
def State.run (s : State) (f : Device → Device) : Host.Outcome State Fault Refusal := s.act (fun d => (f d).settle)

/-! ### Row codes in memory (R82) -/

/-- The four codes of a byte, first nozzle in the two most significant bits. -/
def byteCodes (b : Byte) : List Nat :=
  [(b.extractLsb' 6 2).toNat, (b.extractLsb' 4 2).toNat, (b.extractLsb' 2 2).toNat, (b.extractLsb' 0 2).toNat]

/-- The byte of four codes. -/
def codesByte (a b c e : Nat) : Byte := BitVec.ofNat 2 a ++ BitVec.ofNat 2 b ++ BitVec.ofNat 2 c ++ BitVec.ofNat 2 e

/-- The bytes of a row block, four codes a byte in nozzle order. -/
def packCodes : List Nat → List Byte
  | a :: b :: c :: e :: rest => codesByte a b c e :: packCodes rest
  | _ => []

end Sys2Proof.Machine
end

