-- ==== Sys2Proof/Machine/Lane.lean ====
section
/-! DEFINITION. The Head Ports: frame assembly and compression, tokens, the lane arbiter, leaving READY, parking, and the port status
words (file 09). -/

namespace Sys2Proof.Machine

/-! ### Frames (R166, R167) -/

/-- The symbols of a run of `z` zero codes: runs of 263, then one more run if 8 or more are left, else single codes (R167). -/
def zeroSyms (z : Nat) : List FrameSym :=
  List.replicate (z / 263) (.zeroRun 255) ++
    (if 8 ≤ z % 263 then [.zeroRun (z % 263 - 8)] else List.replicate (z % 263) (.code 0))

/-- Compression of codes behind a run of `z` zeros (R167). -/
def compressFrom (z : Nat) : List Nat → List FrameSym
  | [] => zeroSyms z
  | c :: cs => if c = 0 then compressFrom (z + 1) cs else zeroSyms z ++ .code c :: compressFrom 0 cs

/-- The symbols of a frame (R166, R167). -/
def frameSyms (r : RowIx) (t : Pos) (codes : List Nat) : List FrameSym :=
  .start r (t.toNat % 16777216) :: compressFrom 0 codes

/-! ### The nibbles of the forward lane (R166, R168) -/

/-- The `n` low nibbles of a number, most significant first. -/
def nibblesOf : Nat → Nat → List Nat
  | 0, _ => []
  | n + 1, v => nibblesOf n (v / 16) ++ [v % 16]

/-- The nibbles of a frame symbol: 0xD, the row and six nibbles of the position; the code; or 0xE and two nibbles of c (R166). -/
def FrameSym.form : FrameSym → List Nat
  | .start r t => 0xD :: r.val :: nibblesOf 6 t
  | .code c => [c]
  | .zeroRun c => 0xE :: nibblesOf 2 c

/-- The level byte of a segment: the sign in its most significant bit, the magnitude in its six least significant bits (R168). -/
def Segment.levelByte (g : Segment) : Nat := (if g.negative then 128 else 0) + g.magnitude

/-- The four nibbles of a segment in a WAVEFORM token: its level byte, then its duration byte (R168), each most significant nibble
first (log 43). -/
def Segment.form (g : Segment) : List Nat := nibblesOf 2 g.levelByte ++ nibblesOf 2 g.duration

/-- The command nibble of a token and what follows it (R168). -/
def Token.operand : Token → List Nat
  | .fire r => [r.val]
  | .discard r => [4 + r.val]
  | .tickleAll => [8]
  | .waveform i segs => 9 :: i.val :: segs.toList.flatMap Segment.form

/-- The nibbles of a token: 0xF, then its command (R166, R168). -/
def Token.form (t : Token) : List Nat := 0xF :: t.operand

/-- The nibbles of a symbol of the forward lane; idle fill is 0xC (R166). -/
def LaneSym.form : LaneSym → List Nat
  | .idle => [0xC]
  | .token t => t.form
  | .frame f => f.form

/-- The nibbles of the symbol that a port's forward lane carries now. -/
def HeadPort.laneNibbles (hp : HeadPort) : List Nat := hp.current.form

/-! ### Test patterns and keep-wet (R170 to R172) -/

/-- One step of a PRBS generator: its output bit and the shifted register (R171). -/
def prbsStep (g : BitVec 15) : Bool × BitVec 15 :=
  let b := g.getLsbD 14 != g.getLsbD 13
  (b, (g <<< 1) ||| (if b then 1 else 0))

/-- Two steps give a nozzle's code, the first bit the more significant (R171). -/
def prbsCode (g : BitVec 15) : Nat × BitVec 15 :=
  let a := prbsStep g
  let b := prbsStep a.2
  ((if a.1 then 2 else 0) + (if b.1 then 1 else 0), b.2)

/-- The codes of `n` nozzles from a row's generator, and the generator after them. -/
def prbsCodes : Nat → BitVec 15 → List Nat × BitVec 15
  | 0, g => ([], g)
  | n + 1, g =>
    let a := prbsCode g
    let rest := prbsCodes n a.2
    (a.1 :: rest.1, rest.2)

/-- Keep-wet on the codes of a row from nozzle `k` on: a 0 adds to the age, and at the threshold becomes 4; a drop clears the
age (R172). -/
def keepWet (threshold rowCount : Nat) (r : RowIx) : Nat → List Nat → List (Nat × Nat) → List Nat × List (Nat × Nat)
  | _, [], ages => ([], ages)
  | k, c :: cs, ages =>
    let j := k * rowCount + r.val
    let age := if c = 0 then min 255 (numAt ages j + 1) else 0
    let tickle := c = 0 ∧ threshold ≤ age
    let rest := keepWet threshold rowCount r (k + 1) cs (numPut ages j (if tickle then 0 else age))
    ((if tickle then 4 else c) :: rest.1, rest.2)

/-- LADDER: code 2 where t mod K equals j mod K (R170). -/
def ladderCodes (K rowCount M : Nat) (r : RowIx) (t : Pos) : List Nat :=
  (List.range M).map (fun k => if t.toNat % K = (k * rowCount + r.val) % K then 2 else 0)

/-- Codes of a frame, by the test mode at assembly, with keep-wet, and the port after it (R170, R171, R172). -/
def HeadPort.assemble (hp : HeadPort) (h : HeadDescr) (r : RowIx) (t : Pos) (codes : Option (List Nat)) : List Nat × HeadPort :=
  let zeros := List.replicate h.nozzlesPerRow 0
  let wet := fun cs : List Nat =>
    if h.keepWet = 0 then (cs, hp)
    else
      let k := keepWet h.keepWet h.rowCount r 0 cs hp.ages
      (k.1, { hp with ages := k.2 })
  match h.testMode with
  | .normal => wet (codes.getD zeros)
  | .mute => wet zeros
  | .flood => (List.replicate h.nozzlesPerRow 3, hp)
  | .ladder => (ladderCodes h.ladderK h.rowCount h.nozzlesPerRow r t, hp)
  | .prbs =>
    let g := prbsCodes h.nozzlesPerRow (vget hp.prbs r)
    (g.1, { hp with prbs := vset hp.prbs r g.2 })

/-- The port takes a frame handed over: it assembles, compresses and places it among the waiting frames (R170). -/
def HeadPort.takeFrame (hp : HeadPort) (h : HeadDescr) (r : RowIx) (t : Pos) (codes : Option (List Nat)) : HeadPort :=
  let a := hp.assemble h r t codes
  { a.2 with frames := a.2.frames ++ [{ row := r, stale := false, left := frameSyms r t a.1 }] }

/-! ### Tokens and the lane arbiter (R168, R169) -/

/-- Raise FIRE, DISCARD or TICKLE_ALL at a port: raised in READY alone (R168, section 9.1). -/
def Device.raiseToken (d : Device) (p : PortIx) (t : Token) : Device :=
  if (d.port p).state = .ready then d.modPort p (fun hp => { hp with tokens := hp.tokens ++ [t] }) else d

/-- The row of a token raised for a row. -/
def Token.row : Token → Nat
  | .fire r => r.val
  | .discard r => r.val
  | .tickleAll => 0
  | .waveform _ _ => 0

/-- A token put behind the tokens of its row and of the rows before it. -/
def insertToken (t : Token) : List Token → List Token
  | [] => [t]
  | u :: rest => if t.row < u.row then t :: u :: rest else u :: insertToken t rest

/-- Tokens in row order, those of one row in the order they were raised. -/
def sortTokens (ts : List Token) : List Token := ts.foldl (fun l t => insertToken t l) []

/-- The tokens that `hp` holds behind the first `n`, in row order. -/
def HeadPort.sortBehind (n : Nat) (hp : HeadPort) : HeadPort :=
  { hp with tokens := hp.tokens.take n ++ sortTokens (hp.tokens.drop n) }

/-- Of an instant that began at device `a` and sent no token: the tokens it raised stand in row order at each port (R169; log 28). -/
def Device.inRowOrder (a d : Device) : Device :=
  { d with hp := Vector.ofFn (fun p => (d.port p).sortBehind (a.port p).tokens.length) }

/-- The rows after `r`, in a circle (R169). -/
def circleAfter (r : RowIx) : List RowIx := [r + 1, r + 2, r + 3, r]

/-- The waiting frame whose row comes first in a circle of rows. -/
def pickFrame (frames : List Frame) : List RowIx → Option Frame
  | [] => none
  | r :: rs => match frames.find? (fun f => f.row == r) with
    | some f => some f
    | none => pickFrame frames rs

/-- The arbiter's choice at a symbol boundary (R169): the oldest token, else the frame in progress, else the next waiting
frame, else idle fill. -/
def HeadPort.choose (hp : HeadPort) : HeadPort :=
  match hp.tokens with
  | t :: ts => { hp with current := .token t, tokens := ts }
  | [] =>
    match hp.progress with
    | some { row := r, stale := st, left := f :: fs } =>
      { hp with current := .frame f, progress := some { row := r, stale := st, left := fs } }
    | _ =>
      match pickFrame hp.frames (circleAfter hp.lastRow) with
      | some f =>
        { hp with
          current := (f.left.head?.map LaneSym.frame).getD .idle
          progress := some { f with left := f.left.tail }
          frames := hp.frames.erase f
          lastRow := f.row }
      | none => { hp with current := .idle, progress := none }

/-- The current symbol belongs to the frame in progress and is its last (R169). -/
def HeadPort.atFrameEnd (hp : HeadPort) : Bool :=
  match hp.current, hp.progress with
  | .frame _, some f => f.left.isEmpty
  | _, _ => false

/-- The current symbol belongs to the frame in progress and others follow it. -/
def HeadPort.inFrame (hp : HeadPort) : Bool :=
  match hp.current, hp.progress with
  | .frame _, some f => !f.left.isEmpty
  | _, _ => false

/-- The frame in progress can be sent to its end with nothing between: its last symbol is on the lane, or its symbols
follow one another because no token waits (log 23). -/
def HeadPort.frameCanEnd (hp : HeadPort) : Bool := hp.atFrameEnd || (hp.inFrame && hp.tokens.isEmpty)

/-- A FIRE token is on the lane. -/
def HeadPort.sendingFire (hp : HeadPort) : Bool :=
  match hp.current with
  | .token (.fire _) => true
  | _ => false

/-- The oldest waiting token is a FIRE. -/
def HeadPort.fireNext (hp : HeadPort) : Bool :=
  match hp.tokens with
  | .fire _ :: _ => true
  | _ => false

/-! ### Leaving READY (R153, R159 to R161) -/

/-- What a pipeline holds after its port left READY (R153). Its target mark becomes none, which R153 does not say (log 47). -/
def Pipeline.leaveReady (q : Pipeline) : Pipeline := { q with stage := .empty, missing := false, hold := none, latch := .clear }

/-- The rows of a port that leaves READY (R153). -/
def Device.rowsLeaveReady (d : Device) (p : PortIx) : Device :=
  { d with
    rf := vmod d.rf p (vmap Pipeline.leaveReady)
    ls := d.ls.killFetches (fun q _ => q == p) }

/-- DISCARD tokens stay when a port leaves READY, FIRE and TICKLE_ALL go (R160). R160 does not name a WAVEFORM that still waits; it goes,
because the first table of section 9.1 gives UNLOADED and PARKED none but one being sent (log 40). -/
def Token.staysAtLeave : Token → Bool
  | .fire _ => false
  | .discard _ => true
  | .tickleAll => false
  | .waveform _ _ => false

/-- A port leaves READY with its return lane in sync: the frame is cut, frames and every token but DISCARD go, DISCARD is raised for
every enabled row, and the rows stop printing (R160, R153; log 40). -/
def Device.leaveReady (d : Device) (p : PortIx) (st : PortState) : Device :=
  let discards := (allRows.filter (fun r => d.rowEnabled p r)).map Token.discard
  (d.modPort p (fun hp => { hp with
      state := st
      progress := none
      frames := []
      tokens := hp.tokens.filter Token.staysAtLeave ++ discards
      tickleAt := none })).rowsLeaveReady p

/-- A port whose lane goes silent: frames and tokens withdrawn, idle fill, timers stopped (R159, R161; log 24). -/
def HeadPort.quench (hp : HeadPort) (st : PortState) : HeadPort :=
  { hp with state := st, current := .idle, tokens := [], progress := none, frames := [], tickleAt := none, loadAt := none }

/-- A port enters DISABLED or DOWN from any state; its rows stop printing if it was READY (R159, R161). -/
def Device.quenchPort (d : Device) (p : PortIx) (st : PortState) : Device :=
  let d' := d.modPort p (fun hp => hp.quench st)
  if (d.port p).state = .ready then d'.rowsLeaveReady p else d'

/-! ### Loads and parking (R164, R165, R176) -/

/-- Not a WAVEFORM token. -/
def Token.notWaveform : Token → Bool
  | .fire _ => true
  | .discard _ => true
  | .tickleAll => true
  | .waveform _ _ => false

/-- A load ends by its timer or by a FAULT: waiting WAVEFORM tokens are withdrawn (R165). -/
def HeadPort.endLoad (hp : HeadPort) (st : PortState) : HeadPort :=
  { hp with state := st, loadAt := none, tokens := hp.tokens.filter Token.notWaveform }

/-- Auto-park at an occurrence of a parking condition (R176). -/
def Device.autoPark (d : Device) (p : PortIx) : Device :=
  if (d.head p).autoPark then
    match (d.port p).state with
    | .ready => d.leaveReady p .parked
    | .loading => d.modPort p (fun hp => hp.endLoad .parked)
    | .unloaded => d.modPort p (fun hp => { hp with state := .parked })
    | .disabled => d
    | .down => d
    | .parked => d
  else d

/-- The head is silent: event and counter (R165, R174). -/
def Device.goSilent (d : Device) (p : PortIx) : Device := (d.setHeadEvent p .headSilent).countHead p .silences 1

/-- Port state number of the status word (09, section 9.2). -/
def PortState.code : PortState → Nat
  | .disabled => 0
  | .down => 1
  | .unloaded => 2
  | .loading => 3
  | .ready => 4
  | .parked => 5

/-- A port's status word (09, section 9.2). -/
def HeadPort.statusWord (hp : HeadPort) : Word :=
  BitVec.ofNat 32 (hp.state.code + 2 ^ 8 * (hp.fault.map BitVec.toNat).getD 0 + 2 ^ 16 * hp.silent +
    (if hp.sync = .inSync then 2 ^ 24 else 0) + (if hp.fault.isSome then 2 ^ 25 else 0))

/-- The sixteen port status words (09, section 9.2). -/
def Device.statusWords (d : Device) : List Word := allPorts.map (fun p => (d.port p).statusWord)

/-- LOAD_WAVES ends when every load it started has ended; its reply carries the port status words (R165). -/
def Device.checkLoads (d : Device) : Device :=
  match d.ou.exec with
  | some (.loadWaves h) =>
    if allPorts.any (fun p => (d.port p).state == .loading) then d else d.finishExec h .ok d.statusWords
  | _ => d

/-- The four WAVEFORM tokens of a load (R164). -/
def loadTokens (w : Waveforms) : List Token := [0, 1, 2, 3].map (fun i : Fin 4 => Token.waveform i (vget w i))

/-- A named port starts a load if it is UNLOADED or READY (R164). -/
def Device.startLoad (d : Device) (p : PortIx) : Device :=
  let begin := fun e : Device => e.modPort p (fun hp => { hp with
    state := .loading
    acked := .replicate 4 false
    loadAt := some (e.now + Config.ticksPerMs)
    tokens := hp.tokens ++ loadTokens (vget e.tab.waves p) })
  match (d.port p).state with
  | .unloaded => begin d
  | .ready => begin (d.leaveReady p .loading)
  | .disabled => d
  | .down => d
  | .loading => d
  | .parked => d

/-- The idle tickle timer's expiry when restarted now, none when the interval is 0 (R173). -/
def Device.tickleExpiry (d : Device) (p : PortIx) : Option Nat :=
  if (d.head p).tickleMs = 0 then none else some (d.now + (d.head p).tickleMs * Config.ticksPerMs)

/-- The idle tickle timer restarts, in READY (R173). -/
def Device.restartTickle (d : Device) (p : PortIx) : Device :=
  if (d.port p).state = .ready then d.modPort p (fun hp => { hp with tickleAt := d.tickleExpiry p }) else d

end Sys2Proof.Machine
end

