-- ==== Sys2Proof/Machine/Firing.lean ====
section
/-! DEFINITION. The Row Firing Unit: targets, staging, hand-over, the decision at a row line event, hold release, fetch and landing
completions, and the ends of a job (file 08). -/

namespace Sys2Proof.Machine

/-! ### Targets (R137) -/

/-- Where a row stands: its current position, or before its first crossing the position one before that (R137). -/
def RowPosition.standing (q : RowPosition) : Pos :=
  match q.position with
  | some x => x
  | none =>
    match q.crossing with
    | some c => if c.threshold = Config.lineUnits then 0 - BitVec.ofNat 32 c.delay else 0 - BitVec.ofNat 32 c.delay - 1
    | none => 0

/-- Where a row of the device stands. -/
def Device.standing (d : Device) (p : PortIx) (r : RowIx) : Pos := (d.rowPos p r).standing

/-- The target of a row: one beyond the later of the line in its latch and where it stands (R137). -/
def Device.target (d : Device) (p : PortIx) (r : RowIx) : Pos :=
  match (d.pipe p r).latch with
  | .clear => d.standing p r + 1
  | .sending y => later y (d.standing p r) + 1
  | .loaded y => later y (d.standing p r) + 1

/-- The base of a BOUND or ACTIVE record (R124). -/
def PageRec.base (q : PageRec) : Option Pos :=
  match q.state with
  | .announced => none
  | .bound b => some b
  | .active b => some b

/-- The page line of a position in a record's range B through B + length - 1 (R137). -/
def PageRec.lineAt (q : PageRec) (t : Pos) : Option PageLine :=
  q.base.bind (fun b => if (t - b).toNat < q.length then some { tag := q.tag, line := (t - b).toNat } else none)

/-- The page line of a position, through the page queue (R137, R145). -/
def PageControl.pageLine (pc : PageControl) (t : Pos) : Option PageLine := pc.queue.findSome? (fun q => q.lineAt t)

/-! ### Staging and hand-over (R138, R139, R143, R151) -/

/-- The stage a resolved target gets from its head's ring, and whether the target is MISSING (R138). -/
inductive Resolution where
  | fetch (position : Nat)
  | wait
  | missing
deriving DecidableEq, Repr

/-- What a ring holds for a page line (R138). -/
def Ring.resolve (g : Ring) (pc : PageControl) (pl : PageLine) : Resolution :=
  match g.find pl with
  | some i => if (g.slots[i]?).any (fun t => t.state == .landed) then .fetch i else .wait
  | none => if g.slots.any (fun t => pc.before pl t.page) then .missing else .wait

/-- Resolve the target of a printing row in a fetch mode whose stage is EMPTY (R138). -/
def Device.resolveFetch (d : Device) (p : PortIx) (r : RowIx) : Device :=
  let t := d.target p r
  match d.pc.pageLine t, d.ring p with
  | some pl, some g =>
    match g.resolve d.pc pl with
    | .fetch i => (d.modPipe p r (fun q => { q with stage := .fetching t pl })).raiseFetch p r pl g i
    | .wait => d.modPipe p r (fun q => { q with stage := .waiting t pl })
    | .missing => d.modPipe p r (fun q => { q with missing := true })
  | _, _ => d

/-- Fill an EMPTY stage of a printing row in a running job (R139, R151). -/
def Device.fillStage (d : Device) (p : PortIx) (r : RowIx) : Device :=
  if d.jobActive && d.printing p r && (d.pipe p r).stage == .empty then
    let d := d.modPipe p r (fun q => { q with missing := false })
    if (d.head p).testMode.fetches then d.resolveFetch p r
    else d.modPipe p r (fun q => { q with stage := .staged (d.target p r) none })
  else d

/-- Hand a staged line over to a CLEAR latch, and resolve the next target (R143). A frame of the row that outlived its job may still
be at the port, in front of the new one (log 39). -/
def Device.handOver (d : Device) (p : PortIx) (r : RowIx) : Device :=
  match (d.pipe p r).stage, (d.pipe p r).latch with
  | .staged t codes, .clear =>
    if d.printing p r then
      let d := d.modPort p (fun hp => hp.takeFrame (d.head p) r t codes)
      (d.modPipe p r (fun q => { q with stage := .empty, latch := .sending t })).fillStage p r
    else d
  | _, _ => d

/-- Fill an EMPTY stage and hand over what is ready. -/
def Device.prepare (d : Device) (p : PortIx) (r : RowIx) : Device := (d.fillStage p r).handOver p r

/-- After a binding every printing row with an EMPTY stage resolves again (R129, R139). -/
def Device.prepareAll (d : Device) : Device := allPortRows.foldl (fun d pr => d.prepare pr.1 pr.2) d

/-! ### Firing (R146 to R149) -/

/-- FIRE is raised for a row: its last fire time is now, FIRED is counted, the latch is CLEAR, the hold is over and the port's idle
tickle timer restarts (R147, R149, R173). -/
def Device.fire (d : Device) (p : PortIx) (r : RowIx) : Device :=
  (((d.raiseToken p (.fire r)).modPipe p r
    (fun q => { q with lastFire := d.now, latch := .clear, hold := none })).countHead p .fired 1).restartTickle p

/-- At least the MFI in force has passed since the row's last fire time (R147). -/
def Device.mfiPassed (d : Device) (p : PortIx) (r : RowIx) : Bool := (d.pipe p r).lastFire + d.mfi p ≤ d.now

/-- Report of a lost line to Page Control: added to the record bearing the tag, else to the last-page report bearing it (R132). -/
def PageControl.addLost (pc : PageControl) (tag : Tag) (starved skipped : Nat) : PageControl :=
  if pc.queue.any (fun q => q.tag == tag) then
    { pc with queue := pc.queue.map (fun q =>
        if q.tag = tag then { q with starved := satAdd q.starved starved, skipped := satAdd q.skipped skipped } else q) }
  else
    { pc with report := pc.report.map (fun q =>
        if q.tag = tag then { q with starved := satAdd q.starved starved, skipped := satAdd q.skipped skipped } else q) }

/-- Report a lost line where the event is at a page line (R146, R148, R151). -/
def Device.reportLost (d : Device) (pl : Option PageLine) (starved skipped : Nat) : Device :=
  match pl with
  | some q => { d with pc := d.pc.addLost q.tag starved skipped }
  | none => d

/-- The line is skipped (R146). -/
def Device.skip (d : Device) (p : PortIx) (pl : Option PageLine) : Device :=
  ((d.countHead p .skipped 1).setHeadEvent p .skipped).reportLost pl 0 1

/-- The line is starved; a passed line in the latch is discarded (R148). -/
def Device.starve (d : Device) (p : PortIx) (r : RowIx) (pl : Option PageLine) : Device :=
  let d := ((d.countHead p .starved 1).setHeadEvent p .starved).reportLost pl 1 0
  match (d.pipe p r).latch with
  | .loaded _ => (d.raiseToken p (.discard r)).modPipe p r (fun q => { q with latch := .clear })
  | .sending _ => d
  | .clear => d

/-- The three cases of a row line event of a printing row at position `x` (R145). -/
def Device.judgeLine (d : Device) (p : PortIx) (r : RowIx) (x : Pos) (pl : Option PageLine) : Device :=
  let q := d.pipe p r
  if q.hold.isSome then d.skip p pl
  else if q.latch = .loaded x then
    if d.mfiPassed p r then d.fire p r else d.modPipe p r (fun q => { q with hold := some x })
  else d.starve p r pl

/-- A WAITING or STAGED stage at or behind `x` is dropped (R142). -/
def Stage.dropAt (g : Stage) (x : Pos) : Stage :=
  match g with
  | .waiting t _ => if atOrBehind t x then .empty else g
  | .staged t _ => if atOrBehind t x then .empty else g
  | .fetching _ _ => g
  | .empty => g

/-- A done notice where the event is at a page line (R150). -/
def Device.noticeAt (d : Device) (p : PortIx) (r : RowIx) (pl : Option PageLine) : Device :=
  match pl with
  | some q => d.doneNotice p r q
  | none => d

/-- The Row Firing Unit at a row line event at `x`, whose page line is `pl` (R145, R150, R151, R153). A latch that a starve makes CLEAR
takes no stage that the event overtakes: the drop comes before the hand-over (log 45). -/
def Device.firingEvent (d : Device) (p : PortIx) (r : RowIx) (x : Pos) (pl : Option PageLine) : Device :=
  if d.printing p r then
    let judged := if (d.head p).testMode.fetches && pl.isNone then d else d.judgeLine p r x pl
    let noticed := judged.noticeAt p r pl
    (noticed.modPipe p r (fun q => { q with stage := q.stage.dropAt x })).prepare p r
  else if d.rowEnabled p r then d.noticeAt p r pl
  else d

/-- A hold is released at its release time: the held line is fired, and a STAGED line is handed over (R149). -/
def Device.releaseHold (d : Device) (p : PortIx) (r : RowIx) : Device := (d.fire p r).handOver p r

/-- A pending hold whose release time has come (R149). -/
def Device.holdDue (d : Device) (p : PortIx) (r : RowIx) : Bool := (d.pipe p r).hold.isSome && d.mfiPassed p r

/-! ### Completions (R140, R141, R144) -/

/-- A row of a head whose slot became LANDED (R140). -/
def Device.rowSlotLanded (d : Device) (p : PortIx) (r : RowIx) (done : PageLine) : Device :=
  match d.printing p r, (d.pipe p r).stage, d.ring p with
  | true, .waiting t pl, some g =>
    if pl = done then
      match g.find pl with
      | some i => (d.modPipe p r (fun q => { q with stage := .fetching t pl })).raiseFetch p r pl g i
      | none => d
    else if (g.find pl).isNone && d.pc.before pl done then
      d.modPipe p r (fun q => { q with stage := .empty, missing := true })
    else d
  | _, _, _ => d

/-- The rows of a head are told that a slot became LANDED, in row order (R76, R140). -/
def Device.slotLanded (d : Device) (p : PortIx) (done : PageLine) : Device :=
  allRows.foldl (fun d r => d.rowSlotLanded p r done) d

/-- A row fetch's codes reach their pipeline (R141). -/
def Device.takeFetched (d : Device) (f : Fetch) (codes : List Nat) : Device :=
  match (d.pipe f.port f.row).stage with
  | .fetching t pl =>
    if f.live && pl == { tag := f.tag, line := f.line } then
      if (d.head f.port).testMode.fetches && ahead t (d.standing f.port f.row) then
        (d.modPipe f.port f.row (fun q => { q with stage := .staged t (some codes) })).handOver f.port f.row
      else (d.modPipe f.port f.row (fun q => { q with stage := .empty })).prepare f.port f.row
    else d
  | _ => d

/-- The port reports a frame sent to its last nibble (R144); a frame of an ended job only raises DISCARD (R154 to R156), and none where
its row is no longer enabled (R136; log 41). -/
def Device.frameDone (d : Device) (p : PortIx) (f : Frame) : Device :=
  if f.stale then (if d.rowEnabled p f.row then d.raiseToken p (.discard f.row) else d)
  else
    match (d.pipe p f.row).latch with
    | .sending y =>
      if ahead y (d.standing p f.row) then d.modPipe p f.row (fun q => { q with latch := .loaded y })
      else ((d.raiseToken p (.discard f.row)).modPipe p f.row (fun q => { q with latch := .clear })).handOver p f.row
    | .loaded _ => d
    | .clear => d

/-! ### Test mode changes (R152) -/

/-- A stage that a change of the kind of test mode drops: WAITING or STAGED (R152). -/
def Stage.dropsForMode : Stage → Bool
  | .waiting _ _ => true
  | .staged _ _ => true
  | .fetching _ _ => false
  | .empty => false

/-- A printing row at a change of the kind of test mode: a WAITING or STAGED stage is dropped, and its row resolves afresh (R152,
R139). -/
def Device.rowModeChanged (d : Device) (p : PortIx) (r : RowIx) : Device :=
  if d.jobActive && d.printing p r && (d.pipe p r).stage.dropsForMode then
    (d.modPipe p r (fun q => { q with stage := .empty })).prepare p r
  else d

/-! ### Rows that a WRITE disables (R42, R136) -/

/-- A row that is not enabled holds nothing: EMPTY stage, CLEAR latch, no hold, and nothing is raised (R136; logs 41, 47). -/
def Device.clearIfDisabled (d : Device) (p : PortIx) (r : RowIx) : Device :=
  if d.rowEnabled p r then d else d.modPipe p r Pipeline.leaveReady

/-- The rows of a port after its row count was written (R42, R136). -/
def Device.clearDisabledRows (d : Device) (p : PortIx) : Device := allRows.foldl (fun e r => e.clearIfDisabled p r) d

/-! ### The ends of a job (R154 to R156) -/

/-- A frame of a job that has ended (R154 to R156). -/
def Frame.outlive (f : Frame) : Frame := { f with stale := true }

/-- A port's frames when the job ends (R154 to R156). -/
def HeadPort.outliveFrames (hp : HeadPort) : HeadPort :=
  { hp with frames := hp.frames.map Frame.outlive, progress := hp.progress.map Frame.outlive }

/-- A pipeline at the end of a job: emptied, its latch CLEAR, but for a held line where holds are kept (R154 to R156). -/
def Pipeline.endJob (keepHeld : Bool) (q : Pipeline) : Pipeline :=
  if keepHeld && q.hold.isSome then { q with stage := .empty, missing := false }
  else { q with stage := .empty, missing := false, hold := none, latch := .clear }

/-- One row at the end of a job: DISCARD for a LOADED line that is not kept (R154 to R156). -/
def Device.rowEndJob (keepHeld : Bool) (d : Device) (p : PortIx) (r : RowIx) : Device :=
  let q := d.pipe p r
  let d' := match q.latch with
    | .loaded _ => if keepHeld && q.hold.isSome then d else d.raiseToken p (.discard r)
    | .sending _ => d
    | .clear => d
  d'.modPipe p r (Pipeline.endJob keepHeld)

/-- Every pipeline at the end of a job: frames still at their ports only raise DISCARD when sent, outstanding fetches have
their data dropped (R154 to R156). -/
def Device.endPipelines (d : Device) (keepHeld : Bool) : Device :=
  let d := allPortRows.foldl (fun d pr => d.rowEndJob keepHeld pr.1 pr.2) d
  { d with
    hp := vmap HeadPort.outliveFrames d.hp
    ls := d.ls.killFetches (fun _ _ => true) }

end Sys2Proof.Machine
end

