-- ==== Sys2Proof/Machine/Heads.lean ====
section
/-! DEFINITION. The commands of the Head Ports: lane boundaries, return lanes, the heads' messages and the port timers (file 09). -/

namespace Sys2Proof.Machine

/-! ### The forward lane (R169, R174) -/

/-- The lane arbiter chooses at a boundary (R169). -/
def Device.boundary (d : Device) (p : PortIx) : Device := d.modPort p HeadPort.choose

/-- A frame's last symbol has been sent: the row unit is told, then the arbiter chooses (R144, R169; log 25). -/
def Device.frameSent (d : Device) (p : PortIx) : Device :=
  match (d.port p).progress with
  | some f =>
    if (d.port p).frameCanEnd then ((d.modPort p (fun hp => { hp with progress := none })).frameDone p f).boundary p else d
  | none => d

/-- FRAME_SENT (R144, R169). -/
def execFrameSent (port : PortIx) (s : State) : Host.Outcome State Fault Refusal := s.run (fun d => d.frameSent port)

/-- A FIRE token has been sent: the silent counter, and at 128 the silence and auto-park, which ends a load (R165, R174, R176). -/
def Device.fireSent (d : Device) (p : PortIx) : Device :=
  let e := d.modPort p (fun hp => { hp with silent := min Config.silentLimit (hp.silent + 1) })
  if (d.port p).silent + 1 = Config.silentLimit then ((e.goSilent p).autoPark p).checkLoads else e

/-- FIRE_TOKEN_SENT: the FIRE on the lane, or the FIRE that goes in behind the frame symbol on the lane, has been sent (R169, R174;
log 23). -/
def execFireTokenSent (port : PortIx) (s : State) : Host.Outcome State Fault Refusal :=
  s.run (fun d =>
    if (d.port port).sendingFire then (d.fireSent port).boundary port
    else if (d.port port).inFrame && (d.port port).fireNext then ((d.boundary port).fireSent port).boundary port
    else d)

/-- SYMBOL_BOUNDARY: a boundary that ends neither a FIRE nor a frame's last symbol (R169). -/
def execSymbolBoundary (port : PortIx) (s : State) : Host.Outcome State Fault Refusal :=
  s.run (fun d => if (d.port port).sendingFire || (d.port port).atFrameEnd then d else d.boundary port)

/-! ### Return lanes (R158, R161) -/

/-- A head's return lane reaches IN_SYNC; a DOWN port enters UNLOADED (R158, R161). -/
def HeadPort.laneSync (hp : HeadPort) : HeadPort :=
  { hp with sync := .inSync, state := if hp.sync = .lost ∧ hp.state = .down then .unloaded else hp.state }

/-- HEAD_RETURN_LANE_SYNC. -/
def execHeadReturnLaneSync (port : PortIx) (s : State) : Host.Outcome State Fault Refusal :=
  s.run (fun d => d.modPort port HeadPort.laneSync)

/-- A head's return lane enters LOST (R158, R161). -/
def Device.laneLost (d : Device) (p : PortIx) : Device :=
  if (d.port p).sync = .lost then d
  else
    let e := d.modPort p (fun hp => { hp with sync := .lost })
    match (d.port p).state with
    | .disabled => e
    | .down => e
    | .unloaded => (((e.quenchPort p .down).setHeadEvent p .headLaneLost).countHead p .laneLosses 1).checkLoads
    | .loading => (((e.quenchPort p .down).setHeadEvent p .headLaneLost).countHead p .laneLosses 1).checkLoads
    | .ready => (((e.quenchPort p .down).setHeadEvent p .headLaneLost).countHead p .laneLosses 1).checkLoads
    | .parked => (((e.quenchPort p .down).setHeadEvent p .headLaneLost).countHead p .laneLosses 1).checkLoads

/-- HEAD_RETURN_LANE_LOST. -/
def execHeadReturnLaneLost (port : PortIx) (s : State) : Host.Outcome State Fault Refusal := s.run (fun d => d.laneLost port)

/-! ### Messages of the head (R165, R174, R175) -/

/-- States in which a return message is acted on (R174). -/
def PortState.hears : PortState → Bool
  | .disabled => false
  | .down => false
  | .unloaded => true
  | .loading => true
  | .ready => true
  | .parked => true

/-- A return message reaches a port: the silent counter becomes 0, then the message acts (R174). -/
def Device.hear (d : Device) (p : PortIx) (f : Device → Device) : Device :=
  if (d.port p).state.hears then f (d.modPort p (fun hp => { hp with silent := 0 })) else d

/-- A head's message acts where the bytes that arrived are one of the kind that `pick` takes; other bytes are ignored (R174). -/
def Device.receive {α : Type} (d : Device) (p : PortIx) (first : Byte) (code : Option Byte) (pick : HeadMessage → Option α)
    (act : α → Device → Device) : Device :=
  match (headMessage first code).bind pick with
  | some x => d.hear p (act x)
  | none => d

/-- The row an ACK names. -/
def HeadMessage.ackRow : HeadMessage → Option RowIx
  | .ack r => some r
  | .waveAck _ => none
  | .fault _ => none

/-- The waveform a WAVE_ACK names. -/
def HeadMessage.waveIndex : HeadMessage → Option (Fin 4)
  | .ack _ => none
  | .waveAck i => some i
  | .fault _ => none

/-- The code of a FAULT. -/
def HeadMessage.faultCode : HeadMessage → Option Byte
  | .ack _ => none
  | .waveAck _ => none
  | .fault c => some c

/-- ACK: nothing but the silent counter (R174). The row named plays no part. -/
def execAck (port : PortIx) (byte : Byte) (s : State) : Host.Outcome State Fault Refusal :=
  s.run (fun d => d.receive port byte none HeadMessage.ackRow (fun _ => id))

/-- A port enters READY at the fourth distinct acknowledgement (R165). -/
def Device.enterReady (d : Device) (p : PortIx) : Device :=
  d.modPort p (fun hp =>
    { hp with state := .ready, silent := 0, ages := [], lastRow := 3, loadAt := none, tickleAt := d.tickleExpiry p })

/-- A WAVE_ACK at a LOADING port (R165). -/
def Device.waveAck (d : Device) (p : PortIx) (i : Fin 4) : Device :=
  if (d.port p).state = .loading then
    let e := d.modPort p (fun hp => { hp with acked := vset hp.acked i true })
    if (e.port p).acked.toList.all id then (e.enterReady p).checkLoads else e
  else d

/-- WAVE_ACK. -/
def execWaveAck (port : PortIx) (byte : Byte) (s : State) : Host.Outcome State Fault Refusal :=
  s.run (fun d => d.receive port byte none HeadMessage.waveIndex (fun i d => d.waveAck port i))

/-- A FAULT: recorded, reported, and a parking condition (R175, R176). -/
def Device.headFault (d : Device) (p : PortIx) (code : Byte) : Device :=
  (((((d.modPort p (fun hp => { hp with fault := some code })).setHeadEvent p .headFault).countHead p .faults 1).autoPark p)).checkLoads

/-- FAULT; without its code byte it is ignored (R174). -/
def execHeadFault (port : PortIx) (bytes : HeadBytes) (s : State) : Host.Outcome State Fault Refusal :=
  s.run (fun d => d.receive port bytes.first bytes.code HeadMessage.faultCode (fun c d => d.headFault port c))

/-! ### Port timers (R165, R173) -/

/-- A LOADING port's load timer expires (R165, R176). -/
def Device.loadExpiry (d : Device) (p : PortIx) : Device :=
  if (d.port p).state = .loading ∧ due d.now (d.port p).loadAt then
    let st : PortState := if (d.head p).autoPark then .parked else .unloaded
    ((d.modPort p (fun hp => hp.endLoad st)).goSilent p).checkLoads
  else d

/-- LOAD_TIMER_EXPIRY. -/
def execLoadTimerExpiry (port : PortIx) (s : State) : Host.Outcome State Fault Refusal := s.run (fun d => d.loadExpiry port)

/-- A row's last fire time set (R149). -/
def Pipeline.firedAt (now : Nat) (q : Pipeline) : Pipeline := { q with lastFire := now }

/-- The idle tickle timer of a READY port expires: TICKLE_ALL, the rows' last fire times, the ages, and the timer again (R149, R172,
R173). -/
def Device.tickleAll (d : Device) (p : PortIx) : Device :=
  if (d.port p).state = .ready ∧ due d.now (d.port p).tickleAt then
    let e := d.raiseToken p .tickleAll
    let e : Device := { e with rf := vmod e.rf p (vmap (Pipeline.firedAt d.now)) }
    e.modPort p (fun hp => { hp with ages := [], tickleAt := d.tickleExpiry p })
  else d

/-- IDLE_TICKLE_EXPIRY. -/
def execIdleTickleExpiry (port : PortIx) (s : State) : Host.Outcome State Fault Refusal := s.run (fun d => d.tickleAll port)

end Sys2Proof.Machine
end

