-- ==== Sys2Proof/Machine/Pages.lean ====
section
/-! DEFINITION. Page Control: passages of the job state, triggers and binding, the pitch schedule, and the life of pages under the
rows (file 07). -/

namespace Sys2Proof.Machine

/-! ### Passages into CONFIG (R117, R122) -/

/-- A row's interpolation timer is cancelled and its taken mark cleared (R117). -/
def RowPosition.calm (q : RowPosition) : RowPosition := { q with timer := none, taken := false }

/-- The Position Unit at a passage into CONFIG (R117). -/
def Device.calmRows (d : Device) : Device :=
  { d with pu := { d.pu with rows := mapRows RowPosition.calm d.pu.rows } }

/-- The passage into CONFIG at the end of STOPPING, or by a STOP_JOB that leaves no record (R121, R122, R156; log 20). -/
def Device.endStopping (d : Device) : Device :=
  let d := (d.calmRows.endPipelines true).setEvent .jobStopped
  { d with pc := { d.pc with job := .config, qualifier := none } }

/-! ### The page queue -/

/-- Tags leave the queue: each becomes the last departed (R62; log 21). -/
def departTags (departed : List Tag) (tags : List Tag) : List Tag :=
  tags.foldl (fun l t => l.filter (· != t) ++ [t]) departed

/-- The queue without the records that `gone` picks, their tags departed in queue order. -/
def PageControl.remove (pc : PageControl) (gone : PageRec → Bool) : PageControl :=
  { pc with
    queue := pc.queue.filter (fun q => !gone q)
    departed := departTags pc.departed ((pc.queue.filter gone).map (·.tag)) }

/-- A record is ANNOUNCED. -/
def PageRec.isAnnounced (q : PageRec) : Bool := q.state == .announced

/-- Bind the oldest ANNOUNCED record at a base (R129). -/
def bindOldest (base : Pos) : List PageRec → List PageRec
  | [] => []
  | q :: rest => if q.isAnnounced then { q with state := .bound base } :: rest else q :: bindOldest base rest

/-! ### Triggers (R126 to R129) -/

/-- Kinds of trigger; a PITCH trigger carries the base its anchor advances to when it is refused (R127). -/
inductive Trigger where
  | pdi
  | pitch (next : Pos)
  | go
deriving DecidableEq, Repr

/-- Outcomes of a trigger (R128, R129). -/
inductive TriggerOutcome where
  | bound (tag : Tag)
  | withoutPage
  | early
deriving DecidableEq, Repr

/-- A refused PITCH trigger advances the anchor (R127). -/
def Device.advanceAnchor (d : Device) (k : Trigger) : Device :=
  match k with
  | .pitch next => { d with pc := { d.pc with anchor := some next } }
  | .pdi => d
  | .go => d

/-- A trigger without a page (R129, step 1). -/
def Device.triggerWithoutPage (d : Device) (k : Trigger) : Device :=
  match k with
  | .pitch _ => ((d.setEvent .missedPitch).count .missedPitches 1).advanceAnchor k
  | .pdi => (d.setEvent .triggerWithoutPage).count .triggersWithoutPage 1
  | .go => (d.setEvent .triggerWithoutPage).count .triggersWithoutPage 1

/-- A base is early: behind the bound limit, or at or behind an enabled row's position (R129, step 2). -/
def Device.earlyBase (d : Device) (base : Pos) : Bool :=
  d.pc.boundLimit.any (fun l => behind base l) ||
    d.enabledRows.any (fun pr => (d.rowPos pr.1 pr.2).position.any (fun x => atOrBehind base x))

/-- The binding of the oldest ANNOUNCED record `q` at a base (R129, step 3; R127). -/
def Device.bindPage (d : Device) (q : PageRec) (base : Pos) : Device :=
  let pitch := d.tab.job.source = .pitch
  let pc : PageControl := { d.pc with
    queue := bindOldest base d.pc.queue
    boundLimit := some (base + BitVec.ofNat 32 q.length + BitVec.ofNat 32 d.tab.job.gap)
    anchor := if pitch then some base else d.pc.anchor
    bindingMade := true
    qualifier := if pitch then none else d.pc.qualifier }
  ({ d with pc := pc }).prepareAll

/-- A trigger is judged at the line count of its instant (R129). -/
def Device.trigger (d : Device) (k : Trigger) : Device × TriggerOutcome :=
  match d.pc.queue.find? PageRec.isAnnounced with
  | none => (d.triggerWithoutPage k, .withoutPage)
  | some q =>
    let base := d.pu.count + BitVec.ofNat 32 d.tab.job.offset
    if d.earlyBase base then (((d.setEvent .earlyTrigger).count .earlyTriggers 1).advanceAnchor k, .early)
    else (d.bindPage q base, .bound q.tag)

/-- Whether the trigger qualifier acts (R126). -/
def Device.qualifierActs (d : Device) : Bool :=
  d.jobActive && (d.tab.job.source == .pdi || (d.tab.job.source == .pitch && !d.pc.bindingMade))

/-- A PITCH trigger is scheduled (R133). -/
def Device.pitchScheduled (d : Device) : Option Pos :=
  if d.tab.job.source = .pitch ∧ d.pc.job = .run then d.pc.anchor else none

/-- The line count of the next PITCH trigger: anchor + pitch - offset (R127). -/
def Device.pitchCount (d : Device) (anchor : Pos) : Pos :=
  anchor + BitVec.ofNat 32 d.tab.job.pitch - BitVec.ofNat 32 d.tab.job.offset

/-- Page Control at a global line event: the scheduled PITCH trigger falls (R104, R127). -/
def Device.globalLineEvent (d : Device) : Device :=
  match d.pitchScheduled with
  | some a =>
    if d.pu.count = d.pitchCount a then (d.trigger (.pitch (a + BitVec.ofNat 32 d.tab.job.pitch))).1 else d
  | none => d

/-! ### Pages under the rows (R130, R131) -/

/-- A BOUND record whose base stands at or behind `x` becomes ACTIVE (R130). -/
def PageRec.activateAt (x : Pos) (q : PageRec) : PageRec :=
  match q.state with
  | .bound b => if atOrBehind b x then { q with state := .active b } else q
  | .announced => q
  | .active _ => q

/-- Every enabled row has a current position at or ahead of `y` (R129, R131). -/
def Device.allRowsReached (d : Device) (y : Pos) : Bool :=
  d.enabledRows.all (fun pr => (d.rowPos pr.1 pr.2).position.any (fun x => !behind x y))

/-- A record is finished: every enabled row stands at or beyond its last line (R131). -/
def Device.finishes (d : Device) (q : PageRec) : Bool :=
  q.base.any (fun b => d.allRowsReached (b + BitVec.ofNat 32 q.length - 1))

/-- Records finish from the oldest on, each leaving its report, PAGE_DONE and PAGES_DONE (R131). -/
def Device.finishPages (d : Device) : Device :=
  let fin := d.pc.queue.takeWhile d.finishes
  match fin.getLast? with
  | none => d
  | some last =>
    let pc : PageControl := { d.pc with
      queue := d.pc.queue.dropWhile d.finishes
      departed := departTags d.pc.departed (fin.map (·.tag))
      report := some { tag := last.tag, starved := last.starved, skipped := last.skipped } }
    let d := (({ d with pc := pc }).setEvent .pageDone).count .pagesDone fin.length
    if pc.job = .stopping ∧ pc.queue = [] then d.endStopping else d

/-- The bound limit becomes none when every enabled row has reached it (R129). -/
def Device.clearLimit (d : Device) : Device :=
  if d.pc.boundLimit.any d.allRowsReached then { d with pc := { d.pc with boundLimit := none } } else d

/-- Page Control at a row line event at `x`: activation, finishing, the bound limit (R129, R130, R131). -/
def Device.pageEvent (d : Device) (x : Pos) : Device :=
  (({ d with pc := { d.pc with queue := d.pc.queue.map (PageRec.activateAt x) } }).finishPages).clearLimit

end Sys2Proof.Machine
end

