-- ==== Sys2Proof/Machine/Web.lean ====
section
/-! DEFINITION. The Position Unit: filters and decoder, reverse debt, phase and line count, crossings, edge interval and
interpolation; and the row line event, on which Page Control and the Row Firing Unit act (file 06). -/

namespace Sys2Proof.Machine

/-! ### Filters (R99) -/

/-- The tick at which a channel's filter time is completed: with the setting in force, and at the earliest the tick after a WRITE
of the setting (R99; log 30). -/
def Device.channelDue (d : Device) (c : EncChannel) : Option Nat :=
  c.since.map (fun t0 =>
    match d.pu.filterOld with
    | some (old, t) =>
      if d.now ≤ t then t0 + Config.ticksPerFilterUnit * old
      else max (t0 + Config.ticksPerFilterUnit * d.tab.job.filter) (t + 1)
    | none => t0 + Config.ticksPerFilterUnit * d.tab.job.filter)

/-- The earliest tick at which a filter time is completed. -/
def Device.filterDue (d : Device) : Option Nat :=
  match d.channelDue d.pu.chA, d.channelDue d.pu.chB with
  | some a, some b => some (min a b)
  | some a, none => some a
  | none, some b => some b
  | none, none => none

/-- A channel's sampled level becomes `level` at tick `now` (R99). -/
def EncChannel.sample (c : EncChannel) (now : Nat) (level : Bool) : EncChannel :=
  if level = c.sampled then c
  else { c with sampled := level, since := if level = c.filtered then none else some now }

/-- A channel whose filter time is completed at the tick given takes its sampled level (R99). -/
def EncChannel.complete (c : EncChannel) (at' dueAt : Option Nat) : EncChannel :=
  if dueAt.isSome ∧ dueAt = at' then .settled c.sampled else c

/-! ### The decoder (R100) -/

/-- A step of the pair (A, B) along the cycle in which A leads (R100). -/
def stepsALeading (old new : Bool × Bool) : Bool :=
  (old, new) == ((false, false), (true, false)) || (old, new) == ((true, false), (true, true)) ||
    (old, new) == ((true, true), (false, true)) || (old, new) == ((false, true), (false, false))

/-- What the decoder makes of a new pair (R100). -/
inductive Movement where
  | still
  | forward
  | backward
  | error
deriving DecidableEq, Repr

/-- The decoder's judgement of a new pair under an encoder sense (R100). -/
def decodePair (sense : Sense) (old new : Bool × Bool) : Movement :=
  if old = new then .still
  else if old.1 ≠ new.1 ∧ old.2 ≠ new.2 then .error
  else match sense, stepsALeading old new with
    | .aLeads, true => .forward
    | .aLeads, false => .backward
    | .bLeads, true => .backward
    | .bLeads, false => .forward

/-! ### Row line events (R109) -/

/-- A row line event at image position `x`: the row's position, then the Row Firing Unit's decision and done notice, then Page
Control (R109, R130, R131, R145; log 19). -/
def Device.rowLineEvent (d : Device) (p : PortIx) (r : RowIx) (x : Pos) : Device :=
  let pl := d.pc.pageLine x
  ((d.modRowPos p r (fun q => { q with position := some x })).firingEvent p r x pl).pageEvent x

/-! ### Edges (R102 to R108) -/

/-- The edge interval becomes invalid and the reference edge is cleared (R100, R102, R103). -/
def Position.loseReference (u : Position) : Position := { u with intervalValid := false, reference := none }

/-- The edge timer: ticks since the reference edge, stopping at 1,048,575 (R110). -/
def edgeTimer (now ref : Nat) : Nat := min (now - ref) Config.edgeTimerLimit

/-- The edge interval at a full-advance edge (R110). -/
def Position.measure (u : Position) (now : Nat) : Position :=
  match u.reference with
  | some t =>
    { u with interval := edgeTimer now t, intervalValid := edgeTimer now t < Config.edgeTimerLimit, reference := some now }
  | none => { u with intervalValid := false, reference := some now }

/-- Advance of a forward edge and the debt left (R103). -/
def edgeAdvance (ratio debt : Nat) : Nat × Nat := if ratio ≤ debt then (0, debt - ratio) else (ratio - debt, 0)

/-- Crossing point of a row with threshold T' on an edge from phase P with advance A (R107). -/
def crossingPoint (threshold phase advance : Nat) : Option Nat :=
  if phase < threshold ∧ threshold ≤ phase + advance then some threshold
  else if phase < threshold + Config.lineUnits ∧ threshold + Config.lineUnits ≤ phase + advance then
    some (threshold + Config.lineUnits)
  else none

/-- Image position of a point of the advance: n + floor(u / 65,536) - d (R108, R111). -/
def imagePosition (count : Pos) (u delay : Nat) : Pos :=
  count + BitVec.ofNat 32 (u / Config.lineUnits) - BitVec.ofNat 32 delay

/-- The crossing of a row on an edge, with its image position (R107, R108). -/
def RowPosition.crossOn (q : RowPosition) (count : Pos) (phase advance : Nat) : Option Pos :=
  q.crossing.bind (fun c => (crossingPoint c.threshold phase advance).map (fun u => imagePosition count u c.delay))

/-- The crossings of an edge in port and row order (R107). -/
def Device.crossings (d : Device) (count : Pos) (phase advance : Nat) : List ((PortIx × RowIx) × Pos) :=
  allPortRows.filterMap (fun pr => ((d.rowPos pr.1 pr.2).crossOn count phase advance).map (fun x => (pr, x)))

/-- A crossing at its edge: it consumes a taken mark, else it cancels the row's timer and gives the row line event (R113). Once the
edge has ended the job no further event of it occurs (R101; log 18). -/
def Device.cross (d : Device) (p : PortIx) (r : RowIx) (x : Pos) : Device :=
  if !d.jobActive then d
  else if (d.rowPos p r).taken then d.modRowPos p r (fun q => { q with taken := false })
  else (d.modRowPos p r (fun q => { q with timer := none })).rowLineEvent p r x

/-- Distance from the phase up to a row's next crossing point (R111). -/
def crossingDistance (threshold phase : Nat) : Nat :=
  if phase < threshold then threshold - phase else threshold + Config.lineUnits - phase

/-- A row after a full-advance edge with a valid interval: its timer is armed when its next crossing lies within R (R111). -/
def RowPosition.arm (q : RowPosition) (now ratio interval phase : Nat) (count : Pos) : RowPosition :=
  match q.crossing, q.timer, q.taken with
  | some c, none, false =>
    let dist := crossingDistance c.threshold phase
    if dist ≤ ratio then
      { q with timer := some { expiry := now + dist * interval / ratio, pending := imagePosition count (phase + dist) c.delay } }
    else q
  | _, _, _ => q

/-- An interpolation timer's expiry delivers the pending position and sets the taken mark (R112). -/
def Device.timerExpiry (d : Device) (p : PortIx) (r : RowIx) : Device :=
  match (d.rowPos p r).timer with
  | some t =>
    if t.expiry ≤ d.now then
      (d.modRowPos p r (fun q => { q with timer := none, taken := true })).rowLineEvent p r t.pending
    else d
  | none => d

/-- Arming of a row after the edge's own crossings; a delay of 0 expires at the instant it is armed (R111). -/
def Device.armRow (d : Device) (p : PortIx) (r : RowIx) : Device :=
  if d.jobActive && d.pu.intervalValid && d.tab.job.interpolation && (d.rowPos p r).timer.isNone then
    (d.modRowPos p r (fun q => q.arm d.now d.tab.job.pitchRatio d.pu.interval d.pu.phase d.pu.count)).timerExpiry p r
  else d

/-- Arming after the edge's own crossings, row by row (R111; log 29). -/
def Device.armTimers (d : Device) : Device := allPortRows.foldl (fun e pr => e.armRow pr.1 pr.2) d

/-- The phase and line count after an advance (R104). -/
def Position.advance (u : Position) (a : Nat) : Position :=
  if Config.lineUnits ≤ u.phase + a then { u with phase := u.phase + a - Config.lineUnits, count := u.count + 1 }
  else { u with phase := u.phase + a }

/-- A forward edge: debt, phase and interval, then its events in the order given, then the timers (R103, R104, R107 to R111, R113). -/
def Device.edgeEvents (d : Device) (order : EdgeOrder) : Device :=
  let ratio := d.tab.job.pitchRatio
  let adv := edgeAdvance ratio d.pu.debt
  let full := adv.1 = ratio
  let u : Position := { d.pu with debt := adv.2 }
  let u := if full then u.measure d.now else u.loseReference
  let crossed := d.crossings d.pu.count d.pu.phase adv.1
  let wrapped := Config.lineUnits ≤ d.pu.phase + adv.1
  let d := { d with pu := u.advance adv.1 }
  let line := fun e : Device => if wrapped && e.jobActive then e.globalLineEvent else e
  let rows := fun e : Device => crossed.foldl (fun e c => e.cross c.1.1 c.1.2 c.2) e
  let d := match order with
    | .lineFirst => rows (line d)
    | .rowsFirst => line (rows d)
  if full then d.armTimers else d

/-- A forward edge, its tokens in row order (R169). -/
def Device.forwardEdge (d : Device) (order : EdgeOrder) : Device := d.inRowOrder (d.edgeEvents order)

/-- A row's timer is cancelled without a row line event (R114). -/
def RowPosition.cancel (q : RowPosition) : RowPosition := { q with timer := none }

/-- A backward edge (R102, R114). -/
def Device.backwardEdge (d : Device) : Device :=
  let sum := d.pu.debt + d.tab.job.pitchRatio
  let u : Position := { d.pu with debt := min sum Config.debtLimit, rows := mapRows RowPosition.cancel d.pu.rows }
  let d' := { d with pu := u.loseReference }
  if Config.debtLimit < sum then (d'.setEvent .reverseLimit).count .reverseLimits 1 else d'

/-- An encoder error (R100). -/
def Device.encoderError (d : Device) : Device :=
  (({ d with pu := d.pu.loseReference }).setEvent .encoderError).count .encoderErrors 1

/-- A filtered transition: the channels that complete their filter time at the earliest such tick take their levels, and the
decoder takes the new pair, acting on it in RUN and STOPPING (R99 to R101). -/
def Device.filteredTransition (d : Device) (order : EdgeOrder) : Device :=
  if due d.now d.filterDue then
    let a := d.pu.chA.complete d.filterDue (d.channelDue d.pu.chA)
    let b := d.pu.chB.complete d.filterDue (d.channelDue d.pu.chB)
    let move := decodePair d.tab.job.sense d.pu.pair (a.filtered, b.filtered)
    let d := { d with pu := { d.pu with chA := a, chB := b, pair := (a.filtered, b.filtered) } }
    if d.jobActive then
      match move with
      | .still => d
      | .forward => d.forwardEdge order
      | .backward => d.backwardEdge
      | .error => d.encoderError
    else d
  else d

/-- The row as a START_JOB sets it up: followed where it is enabled, with no position, an idle timer and a clear mark (R106, R116). -/
def Device.startRow (d : Device) (p : PortIx) (r : RowIx) : RowPosition :=
  let q := rget d.tab.rows p r
  { crossing := if d.rowEnabled p r then
      some { threshold := if q.fine = 0 then Config.lineUnits else 256 * q.fine, delay := q.delay } else none
    position := none
    timer := none
    taken := false }

/-- A bank of rows given by port and row. -/
def rowsOf {α : Type} (f : PortIx → RowIx → α) : Vector (Vector α 4) 16 := Vector.ofFn (fun p => Vector.ofFn (fun r => f p r))

/-- The Position Unit at an accepted START_JOB (R116). -/
def Device.startPosition (d : Device) : Device :=
  { d with pu := { d.pu with debt := 0, phase := 0, count := 0, reference := none, intervalValid := false, rows := rowsOf d.startRow } }

end Sys2Proof.Machine
end

