-- ==== Sys2Proof/Machine/Motion.lean ====
section
/-! DEFINITION. The commands of the encoder, the interpolation timers, the holds and the product-detect input (06; 07, section 7.3; R149). -/

namespace Sys2Proof.Machine

/-- A channel's sampled level changes (R99). -/
def Device.sampleChannel (d : Device) (c : Channel) (level : Bool) : Device :=
  match c with
  | .a => { d with pu := { d.pu with chA := d.pu.chA.sample d.now level } }
  | .b => { d with pu := { d.pu with chB := d.pu.chB.sample d.now level } }

/-- ENCODER_INPUT_CHANGE: the filter starts timing, or abandons a pulse (R99). The level of the pin changes while RESET is asserted
too, and is taken at its release (R115). -/
def execEncoderInputChange (channel : Channel) (level : Bool) (s : State) : Host.Outcome State Fault Refusal :=
  .next { s with dev := s.dev.sampleChannel channel level }

/-- FILTERED_TRANSITION (R99 to R104). -/
def execFilteredTransition (order : EdgeOrder) (s : State) : Host.Outcome State Fault Refusal :=
  s.run (fun d => d.filteredTransition order)

/-- INTERPOLATION_TIMER_EXPIRY (R112), its tokens in row order (R169). -/
def execInterpolationTimerExpiry (port : PortIx) (row : RowIx) (s : State) : Host.Outcome State Fault Refusal :=
  s.run (fun d => d.inRowOrder (d.timerExpiry port row))

/-- HOLD_RELEASE (R149). -/
def execHoldRelease (port : PortIx) (row : RowIx) (s : State) : Host.Outcome State Fault Refusal :=
  s.run (fun d => if d.holdDue port row then d.releaseHold port row else d)

/-- The active level of the PDI input (R126). -/
def Polarity.activeLevel : Polarity → Bool
  | .rising => true
  | .falling => false

/-- The trigger qualifier at a change of the sampled level (R126). -/
def Device.pdiChange (d : Device) (level : Bool) : Device :=
  let e := { d with pc := { d.pc with pdi := level } }
  if level = d.pc.pdi ∨ d.resetPin ∨ !d.qualifierActs then e
  else
    match d.pc.qualifier with
    | some _ => { e with pc := { e.pc with qualifier := none } }
    | none =>
      if level = d.tab.job.polarity.activeLevel then
        { e with pc := { e.pc with qualifier := some (d.now + d.tab.job.qualify * Config.ticksPerUs) } }
      else e

/-- PDI_LEVEL_CHANGE (R126). The level of the pin changes while RESET is asserted too, and is taken at its release (R135). -/
def execPdiLevelChange (level : Bool) (s : State) : Host.Outcome State Fault Refusal :=
  .next { s with dev := s.dev.pdiChange level }

/-- The qualify time expires with the new level still held: a PDI trigger (R126). -/
def Device.pdiExpiry (d : Device) : Device :=
  if due d.now d.pc.qualifier then
    let e := { d with pc := { d.pc with qualifier := none } }
    if d.qualifierActs then (e.trigger .pdi).1 else e
  else d

/-- PDI_QUALIFY_EXPIRY (R126, R129). -/
def execPdiQualifyExpiry (s : State) : Host.Outcome State Fault Refusal := s.run Device.pdiExpiry

end Sys2Proof.Machine
end

