-- ==== Sys2Proof/Machine/Clock.lean ====
section
/-! DEFINITION. What happens by the clock alone: the timed events that are due, and a tick (00_scope.md 4.2; R99, R112, R126, R149,
R165, R173). The order of timed events due at one tick is log 3's choice. -/

namespace Sys2Proof.Machine

/-- An armed interpolation timer whose expiry has come (R112). -/
def Device.timerDue (d : Device) (p : PortIx) (r : RowIx) : Bool := (d.rowPos p r).timer.any (fun t => t.expiry ≤ d.now)

/-- The timed event of a row that is due: its interpolation timer's expiry before its hold's release. -/
def Device.rowDue (d : Device) (p : PortIx) (r : RowIx) : Option Instr :=
  if d.timerDue p r then some (.interpolationTimerExpiry p r) else if d.holdDue p r then some (.holdRelease p r) else none

/-- The first port, in port order, that a test picks. -/
def firstPort (test : PortIx → Bool) : Option PortIx := allPorts.find? test

/-- A LOADING port's load timer has expired (R165). -/
def Device.loadDue (d : Device) (p : PortIx) : Bool := (d.port p).state == .loading && due d.now (d.port p).loadAt

/-- A READY port's idle tickle timer has expired (R173). -/
def Device.tickleDue (d : Device) (p : PortIx) : Bool := (d.port p).state == .ready && due d.now (d.port p).tickleAt

/-- The timed event that is due and comes first, none while the RESET pin holds the device (log 3, log 4). Those of the rows come in port
and row order, so that the tokens of one tick stand in row order (R169). -/
def Device.nextDue (d : Device) : Option Instr :=
  if d.resetPin then .none
  else if due d.now d.filterDue then some (.filteredTransition .lineFirst)
  else
    ((allPortRows.findSome? (fun pr => d.rowDue pr.1 pr.2)).or
      (if due d.now d.pc.qualifier then some .pdiQualifyExpiry else .none)).or
      (((firstPort d.loadDue).map Instr.loadTimerExpiry).or ((firstPort d.tickleDue).map Instr.idleTickleExpiry))

/-- A tick passes. -/
def Device.tick (d : Device) : Device := { d with now := d.now + 1 }

end Sys2Proof.Machine
end

