-- ==== Sys2Proof/Machine/Geometry.lean ====
section
/-! DEFINITION. Head geometry: windows, overlaps, stitch zones, and the checks of START_JOB (file 03; R85, R119). -/

namespace Sys2Proof.Machine

/-- Last window column, C0 + N - 1 (R44), as an integer. -/
def HeadDescr.lastColumn (h : HeadDescr) : Int := (h.origin : Int) + h.nozzles - 1

/-- The window lies wholly inside a parcel's span (R18, condition 2). -/
def HeadDescr.inSpan (h : HeadDescr) (l : LineHeader) : Bool :=
  l.firstColumn.toNat ≤ h.origin && h.origin + h.nozzles ≤ l.firstColumn.toNat + pixelCount l

/-- The window shares a column with a parcel's span (R20). -/
def HeadDescr.meetsSpan (h : HeadDescr) (l : LineHeader) : Bool :=
  l.firstColumn.toNat < h.origin + h.nozzles && h.origin < l.firstColumn.toNat + pixelCount l

/-- The head has the parcel's plane. -/
def HeadDescr.hasPlane (h : HeadDescr) (l : LineHeader) : Bool := h.plane.val == l.plane.toNat

/-- A head takes a parcel: enabled, of its plane, and its window inside the span (R18, R58). -/
def HeadDescr.takes (h : HeadDescr) (l : LineHeader) : Bool := h.enabled && h.hasPlane l && h.inSpan l

/-! ### Overlaps (R47 to R49) -/

/-- The overlap two windows share, left head first: C0_A + N_A - C0_B (R47). -/
def derivedOverlap (a b : HeadDescr) : Int := (a.origin : Int) + a.nozzles - b.origin

/-- Right overlap of the head at a port (R49). -/
def rightOverlap (heads : Vector HeadDescr 16) (p : PortIx) : Int :=
  let h := vget heads p
  match h.right.kind with
  | .none => 0
  | .localPort => derivedOverlap h (vget heads h.right.port)
  | .remote => h.right.overlap

/-- Left overlap of the head at a port (R49). -/
def leftOverlap (heads : Vector HeadDescr 16) (p : PortIx) : Int :=
  let h := vget heads p
  match h.left.kind with
  | .none => 0
  | .localPort => derivedOverlap (vget heads h.left.port) h
  | .remote => h.left.overlap

/-! ### START_JOB's checks (R52 to R54, R85, R119) -/

/-- Reason codes of a BAD_SETTING reply (R24). -/
inductive Reason where
  | badGeometry
  | badNeighbour
  | badOverlap
  | ringRange
  | ringOverlap
  | ringTooSmall
  | portNotReady
  | noHeads
  | badR
deriving DecidableEq, Repr

/-- Numbers of the reason codes (R24). -/
def Reason.code : Reason → Nat
  | .badGeometry => 1
  | .badNeighbour => 2
  | .badOverlap => 3
  | .ringRange => 4
  | .ringOverlap => 5
  | .ringTooSmall => 6
  | .portNotReady => 7
  | .noHeads => 8
  | .badR => 9

/-- The BAD_GEOMETRY check fails (R52). -/
def badGeometry (h : HeadDescr) : Bool := 2048 < h.nozzles || 65535 < h.lastColumn

/-- The BAD_NEIGHBOUR check of one side fails (R53); `facing` picks the other head's facing side. -/
def badNeighbour (heads : Vector HeadDescr 16) (p : PortIx) (side facing : HeadDescr → Neighbour) : Bool :=
  let h := vget heads p
  let q := (side h).port
  let o := vget heads q
  (side h).kind == .localPort &&
    (q == p || !o.enabled || o.plane != h.plane || (facing o).kind != .localPort || (facing o).port != p)

/-- The BAD_OVERLAP check fails (R54). -/
def badOverlap (heads : Vector HeadDescr 16) (p : PortIx) : Bool :=
  let l := leftOverlap heads p
  let r := rightOverlap heads p
  l < 0 || 64 < l || r < 0 || 64 < r || ((vget heads p).nozzles : Int) < l + r

/-- The geometry checks of one enabled head, in their order (R52). -/
def headGeometryFault (heads : Vector HeadDescr 16) (p : PortIx) : Option Reason :=
  if badGeometry (vget heads p) then some .badGeometry
  else if badNeighbour heads p (·.left) (·.right) || badNeighbour heads p (·.right) (·.left) then some .badNeighbour
  else if badOverlap heads p then some .badOverlap
  else none

/-- Two heads' segment ranges share a segment, compared as written (R85). -/
def segmentsMeet (a b : HeadDescr) : Bool := a.ringBase < b.ringBase + b.ringSegments && b.ringBase < a.ringBase + a.ringSegments

/-- Coarse delays of a head's rows. -/
def headDelays (h : HeadDescr) (rows : Vector RowDescr 4) : List Nat :=
  (allRows.filter (fun r => decide (r.val < h.rowCount))).map (fun r => (vget rows r).delay)

/-- Spread dmax - dmin of a head's coarse delays (R85). -/
def delaySpread (h : HeadDescr) (rows : Vector RowDescr 4) : Nat :=
  let ds := headDelays h rows
  ds.foldl max 0 - ds.foldl min (ds.foldl max 0)

/-- The ring checks of one enabled head, in their order (R85). -/
def headRingFault (d : Device) (p : PortIx) : Option Reason :=
  let h := d.head p
  if segmentsOf d.ou.memory < h.ringBase + h.ringSegments then some .ringRange
  else if allPorts.any (fun q => q != p && (d.head q).enabled && segmentsMeet h (d.head q)) then some .ringOverlap
  else if capacityOf h.ringSegments (slotBytesOf h.nozzles) < delaySpread h (vget d.tab.rows p) + 2 then some .ringTooSmall
  else none

/-- The first fault a check finds among the enabled heads in port order, with its port (R52, R85, R165). -/
def Device.firstFault (d : Device) (check : PortIx → Option Reason) : Option (Reason × Nat) :=
  allPorts.findSome? (fun p => if (d.head p).enabled then (check p).map (fun x => (x, p.val)) else none)

/-- PORT_NOT_READY of one port (R165). -/
def headReadyFault (d : Device) (p : PortIx) : Option Reason := if (d.port p).state = .ready then none else some .portNotReady

/-- START_JOB's validation: the first check that fails, with the head port it reports (R119). -/
def Device.startFault (d : Device) : Option (Reason × Nat) :=
  if d.tab.job.pitchRatio = 0 then some (.badR, 16)
  else if allPorts.all (fun p => !(d.head p).enabled) then some (.noHeads, 16)
  else
    ((d.firstFault (headGeometryFault d.tab.heads)).or (d.firstFault (headRingFault d))).or (d.firstFault (headReadyFault d))

end Sys2Proof.Machine
end

