-- ==== Sys2Proof/Machine/Codes.lean ====
section
/-! DEFINITION. The landing computation: pixels, tones, stitch ownership, nozzle status, compensation and scatter (04, sections 4.3 to
4.6). Every function reads the landing record alone, which holds what pickup sampled (R59). -/

namespace Sys2Proof.Machine

/-! ### Pixels and tones (R66, R67) -/

/-- Bit `i` of a parcel's body, the first bit the most significant of the first byte (R66). -/
def bodyBit (body : List Byte) (i : Nat) : Bool := (body.getD (i / 8) 0).getLsbD (7 - i % 8)

/-- The number of the `n` bits from bit `i` on, first bit most significant (R66). -/
def bodyBits (body : List Byte) (i : Nat) : Nat → Nat
  | 0 => 0
  | n + 1 => 2 * bodyBits body i n + (if bodyBit body (i + n) then 1 else 0)

/-- Pixel `i` at `depth` bits per pixel (R66). -/
def pixel (body : List Byte) (depth i : Nat) : Nat := bodyBits body (i * depth) depth

/-- Tone of a pixel value by depth (R67). -/
def toneOf (depth v : Nat) : Nat := if depth = 1 then 15 * v else if depth = 2 then 5 * v else v

/-- Tone map entry (R67). -/
def PlaneTable.code (t : PlaneTable) (tone : Nat) : Nat := t.tone.toList.getD tone 0

/-- Dither tile entry D[a][b] (table 4). -/
def PlaneTable.ditherAt (t : PlaneTable) (a b : Nat) : Nat := numAt t.dither (16 * a + b)

/-- Line number of the parcel being landed. -/
def Landing.line (g : Landing) : Nat := g.copy.hdr.line.toNat

/-- Sampled descriptor of a head. -/
def Landing.head (g : Landing) (p : PortIx) : HeadDescr := vget g.heads p

/-- Sampled nozzle status of a head column: 0 GOOD, 1 WEAK, 2 DEAD, 3 OFF. -/
def Landing.status (g : Landing) (p : PortIx) (j : Nat) : Nat := numAt (vget g.nozzles p) j

/-- Step 1: the code of a head column from the parcel (R66, R67). -/
def Landing.toneCode (g : Landing) (p : PortIx) (j : Nat) : Nat :=
  let depth := g.copy.hdr.depth.toNat
  g.plane.code (toneOf depth (pixel g.copy.body depth ((g.head p).origin + j - g.copy.hdr.firstColumn.toNat)))

/-! ### Stitch ownership (R68 to R70) -/

/-- The right head's share at zone index k of a zone of width S (R68). -/
def share (k width : Nat) : Nat := (2 * k + 1) * 256 / (2 * width)

/-- The right head owns the zone column by the dither comparison (R68). -/
def Landing.rightOwns (g : Landing) (k width : Nat) : Bool :=
  decide (g.plane.ditherAt (g.line % 16) (k % 16) < share k width)

/-- A nozzle is DEAD or OFF. -/
def failed (status : Nat) : Bool := status == 2 || status == 3

/-- Ownership of a LOCAL zone column by this head: the dither owner, but that a failed owner passes the column to a head
whose nozzle is good or weak (R70). `mine` says that the dither gives it to this head. -/
def fallback (mine : Bool) (myStatus otherStatus : Nat) : Bool :=
  if mine then !(failed myStatus && !failed otherStatus) else failed otherStatus && !failed myStatus

/-- Where a head column lies (R49, R50). -/
inductive Zone where
  | free
  | leftZone (k width : Nat)
  | rightZone (k width : Nat)
deriving DecidableEq, Repr

/-- The zone of a head column (R49, R50). -/
def Landing.zone (g : Landing) (p : PortIx) (j : Nat) : Zone :=
  let sl := (leftOverlap g.heads p).toNat
  let sr := (rightOverlap g.heads p).toNat
  let n := (g.head p).nozzles
  if j < sl then .leftZone j sl else if n ≤ j + sr then .rightZone (j + sr - n) sr else .free

/-- This head owns a head column on this line (R68 to R70). -/
def Landing.owns (g : Landing) (p : PortIx) (j : Nat) : Bool :=
  let h := g.head p
  match g.zone p j with
  | .free => true
  | .leftZone k w =>
    let mine := g.rightOwns k w
    let q := h.left.port
    if h.left.kind = .localPort then fallback mine (g.status p j) (g.status q ((g.head q).nozzles - w + k)) else mine
  | .rightZone k w =>
    let mine := !g.rightOwns k w
    if h.right.kind = .localPort then fallback mine (g.status p j) (g.status h.right.port k) else mine

/-- Step 2: the post-stitch code (R68). -/
def Landing.postStitch (g : Landing) (p : PortIx) (j : Nat) : Nat := if g.owns p j then g.toneCode p j else 0

/-! ### Nozzle status (R71 to R73) -/

/-- A donor: a DEAD head column this head owns whose post-stitch code is not 0 (R72). -/
def Landing.donor (g : Landing) (p : PortIx) (j : Nat) : Bool :=
  j < (g.head p).nozzles && g.status p j == 2 && g.owns p j && 0 < g.postStitch p j

/-- A receiver may be a GOOD column of the head that this head owns (R72). -/
def Landing.eligible (g : Landing) (p : PortIx) (j : Nat) : Bool := j < (g.head p).nozzles && g.status p j == 0 && g.owns p j

/-- The column on the left of `j`, where there is one and it is eligible. -/
def Landing.leftSide (g : Landing) (p : PortIx) (j : Nat) : Option Nat :=
  if 0 < j ∧ g.eligible p (j - 1) then some (j - 1) else none

/-- The column on the right of `j`, where it is eligible. -/
def Landing.rightSide (g : Landing) (p : PortIx) (j : Nat) : Option Nat := if g.eligible p (j + 1) then some (j + 1) else none

/-- The receiver of a donor's drop: the left side first on an even line, the right side first on an odd one (R72). -/
def Landing.receiver (g : Landing) (p : PortIx) (j : Nat) : Option Nat :=
  if g.line % 2 = 0 then (g.leftSide p j).or (g.rightSide p j) else (g.rightSide p j).or (g.leftSide p j)

/-- What a column receives from the donor at `i` (R72). -/
def Landing.gift (g : Landing) (p : PortIx) (i j : Nat) : Nat :=
  if g.donor p i ∧ g.receiver p i = some j then g.postStitch p i else 0

/-- Steps 3 and 4: the final code of a head column (R71, R73). -/
def Landing.finalCode (g : Landing) (p : PortIx) (j : Nat) : Nat :=
  if g.status p j = 3 ∨ g.donor p j then 0
  else min 3 (g.postStitch p j + (if 0 < j then g.gift p (j - 1) j else 0) + g.gift p (j + 1) j)

/-- Donors of a head whose drop no side can take (R72). -/
def Landing.lostDrops (g : Landing) (p : PortIx) : Nat :=
  ((List.range (g.head p).nozzles).filter (fun j => g.donor p j && (g.receiver p j).isNone)).length

/-! ### The slot's bytes (R74, R82) -/

/-- The codes of a row in nozzle order (R74). -/
def Landing.rowCodes (g : Landing) (p : PortIx) (r : Nat) : List Nat :=
  (List.range (g.head p).nozzlesPerRow).map (fun k => g.finalCode p (k * (g.head p).rowCount + r))

/-- The row blocks of a head's slot, one after another in row order (R74, R82). -/
def Landing.slotData (g : Landing) (p : PortIx) : List Byte :=
  (List.range (g.head p).rowCount).flatMap (fun r => packCodes (g.rowCodes p r))

end Sys2Proof.Machine
end

