-- ==== Sys2Proof/Machine/TableSpace.lean ====
section
/-! DEFINITION. The table space: extents, permissions, the value of every word and the storing of every word (02, section 2.3; 03,
section 3.1; R133). -/

namespace Sys2Proof.Machine

/-- A word holding a number. -/
def wordN (n : Nat) : Word := BitVec.ofNat 32 n

/-- A word holding a flag. -/
def flagN (b : Bool) : Nat := if b then 1 else 0

/-- A port from a number below 16. -/
def portN (n : Nat) : PortIx := Fin.ofNat 16 n

/-- A row from a number below 4. -/
def rowN (n : Nat) : RowIx := Fin.ofNat 4 n

/-- Number of words of a table; the line store window has no fixed extent (02, section 2.3; R133). -/
def tableWords (table : Nat) : Nat :=
  match table with
  | 0 => 6
  | 1 => 10
  | 2 => 256
  | 3 => 128
  | 4 => 2176
  | 5 => 32768
  | 6 => 512
  | 7 => 576
  | 8 => 34
  | 9 => 136
  | _ => 0

/-! ### Codes of the listed settings (R30; 03, section 3.1) -/

def Sense.code : Sense → Nat
  | .aLeads => 0
  | .bLeads => 1
def senseOf (n : Nat) : Sense := if n = 0 then .aLeads else .bLeads
def TriggerSource.code : TriggerSource → Nat
  | .pdi => 0
  | .pitch => 1
  | .orderOnly => 2
def sourceOf (n : Nat) : TriggerSource := if n = 0 then .pdi else if n = 1 then .pitch else .orderOnly
def Polarity.code : Polarity → Nat
  | .rising => 0
  | .falling => 1
def polarityOf (n : Nat) : Polarity := if n = 0 then .rising else .falling
def NeighbourKind.code : NeighbourKind → Nat
  | .none => 0
  | .localPort => 1
  | .remote => 2
def neighbourKindOf (n : Nat) : NeighbourKind := if n = 0 then .none else if n = 1 then .localPort else .remote
def TestMode.code : TestMode → Nat
  | .normal => 0
  | .mute => 1
  | .flood => 2
  | .ladder => 3
  | .prbs => 4
def testModeOf (n : Nat) : TestMode :=
  if n = 0 then .normal else if n = 1 then .mute else if n = 2 then .flood else if n = 3 then .ladder else .prbs
def JobState.code : JobState → Nat
  | .config => 0
  | .run => 1
  | .stopping => 2

/-! ### Reading (R27, R29, R30, R33, R34, R133) -/

/-- Word of table 0 (R29). -/
def Device.identityWord (d : Device) (i : Nat) : Word :=
  match i with
  | 0 => wordN Config.partCode
  | 1 => wordN Config.revision
  | 2 => wordN d.cp.chainId.toNat
  | 3 => wordN (flagN d.tailFlag)
  | 4 => wordN (segmentsOf d.ou.memory)
  | 5 => wordN d.pc.job.code
  | _ => 0

/-- Word of table 1 (R30). -/
def JobSettings.word (s : JobSettings) (i : Nat) : Word :=
  match i with
  | 0 => wordN s.pitchRatio
  | 1 => wordN s.sense.code
  | 2 => wordN s.filter
  | 3 => wordN (flagN s.interpolation)
  | 4 => wordN s.source.code
  | 5 => wordN s.polarity.code
  | 6 => wordN s.qualify
  | 7 => wordN s.offset
  | 8 => wordN s.gap
  | 9 => wordN s.pitch
  | _ => 0

/-- Word of a head descriptor (03, section 3.1). -/
def HeadDescr.word (h : HeadDescr) (w : Nat) : Word :=
  match w with
  | 0 => wordN (flagN h.enabled)
  | 1 => wordN h.plane.val
  | 2 => wordN h.origin
  | 3 => wordN h.rowCount
  | 4 => wordN h.nozzlesPerRow
  | 5 => wordN h.left.kind.code
  | 6 => wordN h.left.port.val
  | 7 => wordN h.left.overlap
  | 8 => wordN h.right.kind.code
  | 9 => wordN h.right.port.val
  | 10 => wordN h.right.overlap
  | 11 => wordN h.ringBase
  | 12 => wordN h.ringSegments
  | 13 => wordN (h.testMode.code + 256 * h.ladderK)
  | 14 => wordN (h.keepWet + 256 * h.tickleMs)
  | 15 => wordN (h.settle + 256 * flagN h.autoPark)
  | _ => 0

/-- Word of table 3 within a port's block (R46). -/
def rowWord (rows : Vector RowDescr 4) (i : Nat) : Word :=
  let q := vget rows (rowN (i / 2))
  wordN (if i % 2 = 0 then q.delay else q.fine)

/-- Word of a plane table (02, section 2.3). -/
def PlaneTable.word (t : PlaneTable) (i : Nat) : Word := wordN (if i < 16 then t.code i else numAt t.dither (i - 16))

/-- Word of a waveform segment (R162). -/
def Segment.word (g : Segment) : Word := wordN (g.duration + 256 * g.magnitude + 32768 * flagN g.negative)

/-- A port's segment by index within its block: 8 x waveform + segment (R162). -/
def segmentAt (w : Waveforms) (i : Nat) : Segment := vget (vget w (rowN (i / 8))) (Fin.ofNat 8 i)

/-- Word of table 7 (R34). -/
def OrderUnit.counterWord (u : OrderUnit) (i : Nat) : Word :=
  if i < 64 then u.devCounts.toList.getD i 0 else (vget u.headCounts (portN ((i - 64) / 32))).toList.getD ((i - 64) % 32) 0

/-- Word of table 8 (R31, R32). -/
def OrderUnit.eventWord (u : OrderUnit) (i : Nat) : Word :=
  if i = 0 then u.devEventWord
  else if i ≤ 16 then vget u.headEvents (portN (i - 1))
  else if i = 17 then u.devMask
  else vget u.headMasks (portN (i - 18))

/-- State number of a page record in the view (R133). -/
def PageState.code : PageState → Nat
  | .announced => 0
  | .bound _ => 1
  | .active _ => 2

/-- Word of a record in the page queue view (R133). -/
def PageRec.word (q : PageRec) (i : Nat) : Word :=
  match i with
  | 0 => wordN (q.state.code + 2 ^ 24 * q.tag.toNat)
  | 1 => wordN q.length
  | 2 => q.base.getD 0
  | 3 => q.starved
  | 4 => q.skipped
  | _ => 0

/-- Word of table 9, the page queue view (R133). -/
def Device.pageWord (d : Device) (i : Nat) : Word :=
  match i with
  | 0 => wordN d.pc.queue.length
  | 1 => (d.pc.report.map (fun q => wordN (256 + q.tag.toNat))).getD 0
  | 2 => (d.pc.report.map (·.starved)).getD 0
  | 3 => (d.pc.report.map (·.skipped)).getD 0
  | 4 => d.pu.count
  | 5 => d.pc.boundLimit.getD 0
  | 6 => (d.pitchScheduled.map d.pitchCount).getD 0
  | 7 => wordN (flagN d.pc.boundLimit.isSome + 2 * flagN d.pitchScheduled.isSome)
  | k => ((d.pc.queue[(k - 8) / 8]?).map (fun q => q.word ((k - 8) % 8))).getD 0

/-- The word of a table at an index within its extent (R27). -/
def Device.readWord (d : Device) (table i : Nat) : Word :=
  match table with
  | 0 => d.identityWord i
  | 1 => d.tab.job.word i
  | 2 => (d.head (portN (i / 16))).word (i % 16)
  | 3 => rowWord (vget d.tab.rows (portN (i / 8))) (i % 8)
  | 4 => (vget d.tab.planes (Fin.ofNat 8 (i / 272))).word (i % 272)
  | 5 => wordN (numAt (vget d.tab.nozzles (portN (i / 2048))) (i % 2048))
  | 6 => (segmentAt (vget d.tab.waves (portN (i / 32))) (i % 32)).word
  | 7 => d.ou.counterWord i
  | 8 => d.ou.eventWord i
  | 9 => d.pageWord i
  | _ => 0

/-- The words of a range in index order, all taken at one instant (R27). -/
def Device.readRange (d : Device) (table start count : Nat) : List Word :=
  (List.range count).map (fun k => d.readWord table (start + k))

/-! ### Storing (R28, R30, R31, R40, R46, R162) -/

/-- Bits `lo` to `lo + n - 1` of a word as a number. -/
def fieldN (w : Word) (lo n : Nat) : Nat := w.toNat / 2 ^ lo % 2 ^ n

/-- A word of table 1 stored, and whether clamping changed it (R28, R30); R written as 0 is stored as written. -/
def JobSettings.store (s : JobSettings) (i : Nat) (w : Word) : JobSettings × Bool :=
  let v := w.toNat
  let c := fun lo hi => (clamp lo hi v, clamp lo hi v != v)
  match i with
  | 0 => if v = 0 then ({ s with pitchRatio := 0 }, false) else ({ s with pitchRatio := (c 1 65536).1 }, (c 1 65536).2)
  | 1 => ({ s with sense := senseOf (c 0 1).1 }, (c 0 1).2)
  | 2 => ({ s with filter := (c 0 15).1 }, (c 0 15).2)
  | 3 => ({ s with interpolation := (c 0 1).1 == 1 }, (c 0 1).2)
  | 4 => ({ s with source := sourceOf (c 0 2).1 }, (c 0 2).2)
  | 5 => ({ s with polarity := polarityOf (c 0 1).1 }, (c 0 1).2)
  | 6 => ({ s with qualify := (c 0 255).1 }, (c 0 255).2)
  | 7 => ({ s with offset := (c 1 65535).1 }, (c 1 65535).2)
  | 8 => ({ s with gap := (c 0 65535).1 }, (c 0 65535).2)
  | 9 => ({ s with pitch := (c 1 16777215).1 }, (c 1 16777215).2)
  | _ => (s, false)

/-- A word of a head descriptor stored, and whether clamping changed a field (R28, R40). -/
def HeadDescr.store (h : HeadDescr) (i : Nat) (w : Word) : HeadDescr × Bool :=
  let low := fieldN w 0 8
  let high := fieldN w 8 8
  let half := fieldN w 0 16
  let c := fun lo hi v => (clamp lo hi v, clamp lo hi v != v)
  match i with
  | 0 => ({ h with enabled := fieldN w 0 1 == 1 }, false)
  | 1 => ({ h with plane := Fin.ofNat 8 (c 0 7 low).1 }, (c 0 7 low).2)
  | 2 => ({ h with origin := half }, false)
  | 3 => ({ h with rowCount := (c 1 4 low).1 }, (c 1 4 low).2)
  | 4 => ({ h with nozzlesPerRow := clampStep 16 16 1024 half }, clampStep 16 16 1024 half != half)
  | 5 => ({ h with left := { h.left with kind := neighbourKindOf (c 0 2 low).1 } }, (c 0 2 low).2)
  | 6 => ({ h with left := { h.left with port := portN (c 0 15 low).1 } }, (c 0 15 low).2)
  | 7 => ({ h with left := { h.left with overlap := w.toNat } }, false)
  | 8 => ({ h with right := { h.right with kind := neighbourKindOf (c 0 2 low).1 } }, (c 0 2 low).2)
  | 9 => ({ h with right := { h.right with port := portN (c 0 15 low).1 } }, (c 0 15 low).2)
  | 10 => ({ h with right := { h.right with overlap := w.toNat } }, false)
  | 11 => ({ h with ringBase := (c 0 2047 half).1 }, (c 0 2047 half).2)
  | 12 => ({ h with ringSegments := (c 1 64 low).1 }, (c 1 64 low).2)
  | 13 => ({ h with testMode := testModeOf (c 0 4 low).1, ladderK := (c 2 64 high).1 }, (c 0 4 low).2 || (c 2 64 high).2)
  | 14 => ({ h with keepWet := low, tickleMs := high }, false)
  | 15 => ({ h with settle := low, autoPark := fieldN w 8 1 == 1 }, false)
  | _ => (h, false)

/-- A word of table 3 stored within a port's block (R28, R46); the whole word is the field (log 44). -/
def storeRow (rows : Vector RowDescr 4) (i : Nat) (w : Word) : Vector RowDescr 4 × Bool :=
  let v := w.toNat
  if i % 2 = 0 then (vmod rows (rowN (i / 2)) (fun q => { q with delay := clamp 0 65535 v }), clamp 0 65535 v != v)
  else (vmod rows (rowN (i / 2)) (fun q => { q with fine := clamp 0 255 v }), clamp 0 255 v != v)

/-- A word of a plane table stored; the whole word is the field (R28; 02, section 2.3; log 44). -/
def PlaneTable.store (t : PlaneTable) (i : Nat) (w : Word) : PlaneTable × Bool :=
  let v := w.toNat
  if i < 16 then ({ t with tone := vset t.tone (Fin.ofNat 16 i) (clamp 0 3 v) }, clamp 0 3 v != v)
  else ({ t with dither := numPut t.dither (i - 16) (clamp 0 255 v) }, clamp 0 255 v != v)

/-- A segment from its word: the magnitude clamped to 63, a negative zero stored as a positive one (R28, R162). -/
def segmentOf (w : Word) : Segment × Bool :=
  let m := fieldN w 8 7
  ({ negative := fieldN w 15 1 == 1 && clamp 0 63 m != 0, magnitude := clamp 0 63 m, duration := fieldN w 0 8 },
    clamp 0 63 m != m)

/-- A word of tables 1 to 6 stored, and whether clamping changed a field (R28). A nozzle status is the whole word (log 44). -/
def Tables.store (t : Tables) (table i : Nat) (w : Word) : Tables × Bool :=
  match table with
  | 1 =>
    let x := t.job.store i w
    ({ t with job := x.1 }, x.2)
  | 2 =>
    let x := (vget t.heads (portN (i / 16))).store (i % 16) w
    ({ t with heads := vset t.heads (portN (i / 16)) x.1 }, x.2)
  | 3 =>
    let x := storeRow (vget t.rows (portN (i / 8))) (i % 8) w
    ({ t with rows := vset t.rows (portN (i / 8)) x.1 }, x.2)
  | 4 =>
    let x := (vget t.planes (Fin.ofNat 8 (i / 272))).store (i % 272) w
    ({ t with planes := vset t.planes (Fin.ofNat 8 (i / 272)) x.1 }, x.2)
  | 5 =>
    let v := clamp 0 3 w.toNat
    ({ t with nozzles := vmod t.nozzles (portN (i / 2048)) (fun m => numPut m (i % 2048) v) }, v != w.toNat)
  | 6 =>
    let x := segmentOf w
    let k := i % 32
    ({ t with waves := vmod t.waves (portN (i / 32)) (fun wf => vmod wf (rowN (k / 8)) (fun s => vset s (Fin.ofNat 8 k) x.1)) }, x.2)
  | _ => (t, false)

/-- A mask word of table 8 stored; bits not assigned are ignored (R31). -/
def OrderUnit.storeMask (u : OrderUnit) (i : Nat) (w : Word) : OrderUnit :=
  if i = 17 then { u with devMask := w &&& devEventBits }
  else { u with headMasks := vset u.headMasks (portN (i - 18)) (w &&& headEventBits) }

/-- One word of a WRITE stored (R28). -/
def Device.storeWord (d : Device) (table i : Nat) (w : Word) : Device × Bool :=
  if table = 8 then ({ d with ou := d.ou.storeMask i w }, false)
  else
    let x := d.tab.store table i w
    ({ d with tab := x.1 }, x.2)

/-- The words of a WRITE stored from an index on, and whether clamping changed any field (R28). -/
def Device.storeWords (d : Device) (table i : Nat) : List Word → Device × Bool
  | [] => (d, false)
  | w :: ws =>
    let x := d.storeWord table i w
    let y := x.1.storeWords table (i + 1) ws
    (y.1, x.2 || y.2)

/-- A word is writable in a job state (02, section 2.3; R40). -/
def writable (job : JobState) (table i : Nat) : Bool :=
  match table with
  | 1 => job == .config
  | 2 => job == .config || 13 ≤ i % 16
  | 3 => job == .config
  | 4 => true
  | 5 => true
  | 6 => job == .config
  | 8 => 17 ≤ i
  | _ => false

/-- Whether a range of the line store window lies within the table: the head has a ring and the words lie within the slot's
window (R96). -/
def Device.windowRangeOk (d : Device) (start count : Nat) : Bool :=
  (d.ring (portN (start / 1048576))).any (fun g => start % 256 + count ≤ 2 + g.slotBytes / 4 && start % 256 + count ≤ 256)

/-- The range check of R26, step 3. -/
def Device.rangeOk (d : Device) (table start count : Nat) : Bool :=
  if table = 10 then d.windowRangeOk start count else start + count ≤ tableWords table

end Sys2Proof.Machine
end

