-- ==== Sys2Proof/Machine/LandingSteps.lean ====
section
/-! DEFINITION. The commands of the Landing Engine and of the memory: pickup, landing writes, row fetches (04, sections 4.1, 4.2, 4.6; 05,
section 5.6). -/

namespace Sys2Proof.Machine

/-! ### Pickup (R57 to R65) -/

/-- The parcel's copy as a page line. -/
def LineCopy.page (c : LineCopy) : PageLine := { tag := c.hdr.tag, line := c.hdr.line.toNat }

/-- Outcome of the acceptance checks for one taking head (section 4.2). -/
inductive Acceptance where
  | outOfPage
  | stale
  | late
  | overrun
  | accepted
deriving DecidableEq, Repr

/-- The parcel fails STALE: the ring's newest slot does not stand strictly before it (R62). -/
def Device.isStale (d : Device) (p : PortIx) (pl : PageLine) : Bool :=
  ((d.ring p).bind (fun g => g.slots.getLast?)).any (fun t => !d.pc.before t.page pl)

/-- The largest current position of a head's enabled rows (R63). -/
def Device.mostAdvanced (d : Device) (p : PortIx) : Option Pos :=
  ((allRows.filter (fun r => d.rowEnabled p r)).filterMap (fun r => (d.rowPos p r).position)).foldl
    (fun m x => some ((m.map (later x)).getD x)) none

/-- The parcel fails LATE: its page has a base and its position is at or behind the most advanced row (R63). -/
def Device.isLate (d : Device) (p : PortIx) (q : PageRec) (line : Nat) : Bool :=
  q.base.any (fun b => (d.mostAdvanced p).any (fun x => atOrBehind (b + BitVec.ofNat 32 line) x))

/-- The ring holds as many slots as its capacity (R64). Every enabled head has a ring in a job (R83); a head without one could take no
slot either. -/
def Device.ringFull (d : Device) (p : PortIx) : Bool := (d.ring p).all (fun g => g.capacity ≤ g.slots.length)

/-- The acceptance checks of one taking head, in their order (section 4.2). -/
def Device.accept (d : Device) (q : PageRec) (pl : PageLine) (p : PortIx) : Acceptance :=
  if q.length ≤ pl.line then .outOfPage
  else if d.isStale p pl then .stale
  else if d.isLate p q pl.line then .late
  else if d.ringFull p then .overrun
  else .accepted

/-- What a check's outcome does for its head: the counter and event of a refusal, or the slot of an acceptance (R61 to R65, R87). -/
def Device.applyAcceptance (d : Device) (pl : PageLine) (p : PortIx) (a : Acceptance) : Device :=
  match a with
  | .outOfPage => d.countHead p .outOfPage 1
  | .stale => d.countHead p .stale 1
  | .late => (d.countHead p .late 1).setHeadEvent p .late
  | .overrun => (d.countHead p .overrun 1).setHeadEvent p .overrun
  | .accepted => d.modRing p (fun g => g.append pl.tag pl.line)

/-- The landing record of a pickup: what it samples (R59) and the heads that accepted (R65). -/
def Device.landing (d : Device) (c : LineCopy) (accepting : List PortIx) : Landing :=
  { copy := c, plane := vget d.tab.planes (Fin.ofNat 8 c.hdr.plane.toNat), nozzles := d.tab.nozzles, heads := d.tab.heads,
    accepting := accepting, toRaise := accepting, incomplete := accepting.length, lost := [] }

/-- The pickup of a copy whose tag is announced (R58 to R65). -/
def Device.pickupAnnounced (d : Device) (c : LineCopy) (q : PageRec) : Device :=
  let taking := allPorts.filter (fun p => (d.head p).takes c.hdr)
  let accepting := taking.filter (fun p => d.accept q c.page p == .accepted)
  let e := taking.foldl (fun e p => e.applyAcceptance c.page p (d.accept q c.page p)) d
  { e with le := if accepting = [] then none else some (d.landing c accepting) }

/-- A pickup (R57, R60). -/
def Device.pickup (d : Device) : Device :=
  match d.le, d.ib.complete with
  | none, c :: rest =>
    if d.jobActive then
      let e := { d with ib := { d.ib with complete := rest } }
      match d.pc.queue.find? (fun q => q.tag == c.hdr.tag) with
      | none => e.count .unannounced 1
      | some q => e.pickupAnnounced c q
    else d
  | _, _ => d

/-- PICKUP. -/
def execPickup (s : State) : Host.Outcome State Fault Refusal := s.run Device.pickup

/-! ### Landing writes (R75, R76) -/

/-- Address of the slot a landing opened in a head's ring. -/
def Device.landingAddr (d : Device) (p : PortIx) (pl : PageLine) : Nat :=
  ((d.ring p).bind (fun g => (g.find pl).map g.slotAddr)).getD 0

/-- The next accepting head in port order has its final codes, and its landing write is raised (R75). -/
def Device.raiseWrite (d : Device) : Device :=
  match d.le with
  | some g =>
    match g.toRaise with
    | p :: ps =>
      let w : LandWrite := { port := p, addr := d.landingAddr p g.copy.page, bytes := g.slotData p, live := true }
      { d with
        le := some { g with toRaise := ps, lost := g.lost ++ [(p, g.lostDrops p)] }
        ls := { d.ls with writeQ := d.ls.writeQ ++ [w] } }
    | [] => d
  | none => d

/-- LANDING_WRITE_RAISED. -/
def execLandingWriteRaised (s : State) : Host.Outcome State Fault Refusal := s.run Device.raiseWrite

/-- Lost drops of a head, as its codes gave them (R72, R76). -/
def Landing.lostOf (g : Landing) (p : PortIx) : Nat := ((g.lost.find? (fun x => x.1 == p)).map (·.2)).getD 0

/-- The completion of a landing at one accepting head: LANDED, the counters, release, and the waiting rows told (R76, R89, R140). -/
def Device.landHead (g : Landing) (d : Device) (p : PortIx) : Device :=
  let e := d.modRing p (fun ring => (ring.land g.copy.page).release)
  ((e.countHead p .landed 1).countHead p .lostDrops (g.lostOf p)).slotLanded p g.copy.page

/-- A live landing write has completed; with the last one the landing completes (R75, R76). -/
def Device.writeDone (d : Device) : Device :=
  match d.le with
  | some g =>
    if g.incomplete ≤ 1 then g.accepting.foldl (Device.landHead g) { d with le := none }
    else { d with le := some { g with incomplete := g.incomplete - 1 } }
  | none => d

/-- A landing write in service completes at the memory; that of an abandoned landing changes no slot and counts nothing (R77). -/
def Device.landWriteDone (d : Device) (w : LandWrite) : Device :=
  let e := { d with mem := writeBytes d.mem w.addr w.bytes, ls := { d.ls with service := none } }
  if w.live then e.writeDone else e

/-- LANDING_WRITE_COMPLETE. -/
def execLandingWriteComplete (s : State) : Host.Outcome State Fault Refusal :=
  match s.dev.ls.service with
  | some (.landWrite w) =>
    if installed s.dev.ou.memory w.addr w.bytes.length then s.run (fun d => d.landWriteDone w)
    else .fault (.absentMemory w.addr)
  | _ => s.run id

/-! ### Row fetches (R95, R141) -/

/-- A row fetch in service completes: the row's codes go to its pipeline (R95, R141). -/
def Device.fetchDone (d : Device) (f : Fetch) : Device :=
  ({ d with ls := { d.ls with service := none } }).takeFetched f ((readBytes d.mem f.addr f.len).flatMap byteCodes)

/-- ROW_FETCH_COMPLETE. -/
def execRowFetchComplete (s : State) : Host.Outcome State Fault Refusal :=
  match s.dev.ls.service with
  | some (.fetch f) =>
    if installed s.dev.ou.memory f.addr f.len then s.run (fun d => d.fetchDone f) else .fault (.absentMemory f.addr)
  | _ => s.run id

end Sys2Proof.Machine
end

