-- ==== Sys2Proof/Machine/Resets.lean ====
section
/-! DEFINITION. The RESET pin and the instant at which the RESET order takes effect (02, section 2.6; R21, R79, R98, R115, R135, R157,
R177). -/

namespace Sys2Proof.Machine

/-- A reset abandons the request in service; a landing write may leave part of its bytes (R98; log 8). -/
def Device.abandonTransfer (d : Device) : Device :=
  match d.ls.service with
  | some (.landWrite w) => { d with mem := writePartly d.freeCount d.mem w.addr 0 w.bytes, freeCount := d.freeCount + 1 }
  | some (.fetch _) => d
  | some (.window _ _ _ _) => d
  | none => d

/-- Every block at its pin-reset state, the inputs' levels as they stand, the memory contents kept (R21, R81). -/
def Device.toPinReset (d : Device) (straps : MemSize) : Device :=
  .afterPin d.now d.freeCount d.mem d.cp.downOut straps d.pu.chA.sampled d.pu.chB.sampled d.pc.pdi

/-- The RESET pin is asserted: every block is held at its reset state (R37). -/
def Device.pinAssert (d : Device) : Device := { d.abandonTransfer.toPinReset d.ou.memory with resetPin := true }

/-- A down-lane parcel being repeated goes on without its local copies, and a NUMBER parcel is held no longer (R21; log 12). -/
def DownRx.dropCopies : DownRx → DownRx
  | .idle => .idle
  | .line h counted => .line h counted
  | .order h _ repeated => .order h false repeated
  | .number v _ => .number v false
  | .refused => .refused

/-- A return-in parcel being received is ignored up to its closing marker (R21). -/
def ReturnRx.ignoreRest : ReturnRx → ReturnRx
  | .idle => .idle
  | .storing => .ignoring
  | .ignoring => .ignoring

/-- The RESET order takes effect: the pin's reset but for the chain ID, the lanes' sync states, down-lane repetition, the
filtered levels and decoder pair, the installed memory word and the memory (R21, R38, R99, R115, R158). A level change that a filter is
timing goes on being timed from its own start, against the default setting (log 38). -/
def Device.softReset (d : Device) : Device :=
  let e := d.abandonTransfer
  let base := e.toPinReset d.ou.memory
  { base with
    cp := { base.cp with
      chainId := d.cp.chainId
      downSync := d.cp.downSync
      returnSync := d.cp.returnSync
      rx := d.cp.rx.dropCopies
      returnRx := d.cp.returnRx.ignoreRest }
    pu := { base.pu with chA := d.pu.chA, chB := d.pu.chB, pair := d.pu.pair }
    hp := vmap (fun hp => .reset hp.sync) d.hp }

/-- RESET_PIN_ASSERT (R37). While the pin is asserted already the event does not occur. -/
def execResetPinAssert (s : State) : Host.Outcome State Fault Refusal := s.act Device.pinAssert

/-- RESET_PIN_RELEASE: the straps are read and every block starts from its reset state (R29, R37). It needs the pin asserted. -/
def execResetPinRelease (straps : MemSize) (s : State) : Host.Outcome State Fault Refusal :=
  .next { s with dev := if s.dev.resetPin then s.dev.toPinReset straps else s.dev }

end Sys2Proof.Machine
end

