-- ==== Sys2Proof/Machine/Link.lean ====
section
/-! DEFINITION. The Chain Port's commands: the down lane, numbering, the order queue's intake, line admission, the return lane and the
up lane (file 01). -/

namespace Sys2Proof.Machine

/-! ### Shared operations of the down lane -/

/-- The down lane out is given more to send (R7). -/
def Device.emit (d : Device) (tx : List DownTx) : Device := { d with cp := { d.cp with downOut := d.cp.downOut ++ tx } }

/-- Bytes of a parcel's body and CRC as they go on down the lane. -/
def bodyTx (bs : List Byte) : List DownTx := if bs = [] then [] else [.bytes bs]

/-- A place of the order queue whose order is complete. -/
def OrderPlace.isComplete : OrderPlace → Bool
  | .arriving _ => false
  | .complete _ => true

/-- The order still arriving releases its place (R14). -/
def Device.dropArriving (d : Device) : Device := { d with cp := { d.cp with orderQ := d.cp.orderQ.filter OrderPlace.isComplete } }

/-- No parcel is being received on the down lane. -/
def Device.rxIdle (d : Device) : Device := { d with cp := { d.cp with rx := .idle } }

/-- The copy being filled is removed and its space returned (R19). -/
def Device.dropFilling (d : Device) : Device := { d with ib := { d.ib with filling := none } }

/-- The parcel whose header was examined last, if it is open, ends as aborted after the bytes given (R2, R8): counted once (R3),
its copies gone, its repetition closed with abort-end. -/
def Device.abortOpen (d : Device) (bs : List Byte) : Device :=
  match d.cp.rx with
  | .idle => d
  | .refused => d.rxIdle
  | .line _ counted =>
    let e := ((d.emit (bodyTx bs ++ [.abortEnd])).dropFilling).rxIdle
    if counted then e else e.count .downAborted 1
  | .order _ _ repeated =>
    let e := if repeated then d.emit (bodyTx bs ++ [.abortEnd]) else d
    (e.dropArriving.rxIdle).count .downAborted 1
  | .number _ _ => d.rxIdle.count .downAborted 1

/-- What ends at an abort-end, an early end or a loss of sync (R2; log 12). -/
def Device.endPart (d : Device) (part : DownPart) : Device :=
  match part with
  | .between => d.abortOpen []
  | .headerless => (d.abortOpen []).count .downAborted 1
  | .afterHeader bs => d.abortOpen bs

/-- A down-lane event that a LOST lane ignores (R1). -/
def Device.onDown (d : Device) (f : Device → Device) : Device := if d.cp.downSync = .inSync then f d else d

/-! ### Sync and errors of the down lane (R1, R2, R8) -/

/-- DOWN_LANE_SYNC (R1). -/
def execDownLaneSync (s : State) : Host.Outcome State Fault Refusal :=
  s.run (fun d => { d with cp := { d.cp with downSync := .inSync } })

/-- The down lane in enters LOST (R8). -/
def Device.downLost (d : Device) (part : DownPart) : Device :=
  let e := ((d.endPart part).setEvent .downLinkLost).count .downLinkLosses 1
  { e with cp := { e.cp with downSync := .lost } }

/-- DOWN_LANE_LOST (R8). -/
def execDownLaneLost (part : DownPart) (s : State) : Host.Outcome State Fault Refusal :=
  s.run (fun d => d.onDown (fun d => d.downLost part))

/-- DOWN_SYMBOL_ERROR (R1, R2). -/
def execDownSymbolError (part : DownPart) (s : State) : Host.Outcome State Fault Refusal :=
  s.run (fun d => d.onDown (fun d => (d.count .downSymbolErrors 1).endPart part))

/-- DOWN_PARCEL_ABORTED (R2). -/
def execDownParcelAborted (part : DownPart) (s : State) : Host.Outcome State Fault Refusal :=
  s.run (fun d => d.onDown (fun d => d.endPart part))

/-- SHORT_HEADER_PARCEL: a BAD_PARCEL of which nothing is repeated (R2). -/
def execShortHeaderParcel (s : State) : Host.Outcome State Fault Refusal :=
  s.run (fun d => d.onDown (fun d => (d.abortOpen []).count .downBadParcels 1))

/-- BAD_KIND_PARCEL: a REPLY or a parcel of unknown kind on the down lane (R6). -/
def execBadKindParcel (kind : Byte) (s : State) : Host.Outcome State Fault Refusal :=
  s.run (fun d => d.onDown (fun d =>
    if (Instr.badKindParcel kind).wellFormed then
      let e := (d.abortOpen []).count .downBadParcels 1
      { e with cp := { e.cp with rx := .refused } }
    else d))

/-! ### LINE parcels (R5, R18 to R20) -/

/-- Bytes of the Intake Buffer that copies occupy, the copy being landed included (R18, R19). -/
def Device.intakeUsed (d : Device) : Nat :=
  (d.ib.complete.map (fun c => intakeSpace c.hdr)).sum + (d.ib.filling.map intakeSpace).getD 0 +
    (d.le.map (fun g => intakeSpace g.copy.hdr)).getD 0

/-- A head of the device needs the parcel in the current job state (R18, conditions 1 and 2). -/
def Device.needs (d : Device) (h : LineHeader) : Bool := d.jobActive && allPorts.any (fun p => (d.head p).takes h)

/-- Admission of a LINE parcel with a valid header (R18). -/
def Device.admitCopy (d : Device) (h : LineHeader) : Device :=
  if d.needs h then
    if d.intakeUsed + intakeSpace h ≤ Config.intakeBytes then { d with ib := { d.ib with filling := some h } }
    else (d.setEvent .intakeOverflow).count .intakeOverflows 1
  else d

/-- A LINE header has been examined (R5, R7, R18). -/
def Device.lineHeader (d : Device) (h : LineHeader) : Device :=
  let e := (d.abortOpen []).emit [.start (lineHeaderBytes h)]
  if lineHeaderValid h then
    let e := e.admitCopy h
    { e with cp := { e.cp with rx := .line h false } }
  else
    let e := e.count .downBadParcels 1
    { e with cp := { e.cp with rx := .line h true } }

/-- LINE_PARCEL_HEADER. -/
def execLineParcelHeader (hdr : LineHeader) (s : State) : Host.Outcome State Fault Refusal :=
  s.run (fun d => d.onDown (fun d => d.lineHeader hdr))

/-- The copy being filled is complete and joins the arrival order (R19). -/
def Device.completeCopy (d : Device) (body : List Byte) : Device :=
  match d.ib.filling with
  | some h => { d with ib := { complete := d.ib.complete ++ [{ hdr := h, body := body }], filling := none } }
  | none => d

/-- PARTIAL_SPAN for the heads whose window a good parcel covers only in part (R20). -/
def Device.countPartial (d : Device) (h : LineHeader) : Device :=
  if d.jobActive then
    allPorts.foldl (fun e p =>
      if (d.head p).enabled && (d.head p).hasPlane h && (d.head p).meetsSpan h && !(d.head p).inSpan h then
        e.countHead p .partialSpan 1 else e) d
  else d

/-- The end marker of a LINE parcel (R3, R5, R19, R20). -/
def Device.lineEnd (d : Device) (bs : List Byte) : Device :=
  match d.cp.rx with
  | .line h counted =>
    let e := (d.emit (bodyTx bs ++ [.endMarker])).rxIdle
    if counted then e
    else
      match judgeEnd (lineHeaderBytes h) (lineBodyBytes h) bs with
      | .good => (e.completeCopy (bs.take (lineBodyBytes h))).countPartial h
      | .badLength => e.dropFilling.count .downBadParcels 1
      | .badCrc => e.dropFilling.count .downCrcErrors 1
  | .idle => d
  | .order _ _ _ => d
  | .number _ _ => d
  | .refused => d

/-- LINE_PARCEL_END. -/
def execLineParcelEnd (bytes : List Byte) (s : State) : Host.Outcome State Fault Refusal :=
  s.run (fun d => d.onDown (fun d => d.lineEnd bytes))

/-! ### ORDER parcels (R6, R7, R12 to R15) -/

/-- A reply of the Chain Port uses a FREE place; without one the counter is counted instead (R11 to R13, R15). -/
def Device.chainReply (d : Device) (h : OrderHeader) (status : Status) (body : List Word) (full : DevCounter) : Device :=
  if 0 < d.freePlaces then d.pushReply h status body false else d.count full 1

/-- The order takes a place of the order queue, or is refused with BUSY (R13). -/
def Device.queueOrder (d : Device) (h : OrderHeader) (repeated : Bool) : Device :=
  if d.cp.orderQ.length < Config.orderPlaces then
    { d with cp := { d.cp with orderQ := d.cp.orderQ ++ [.arriving h], rx := .order h true repeated } }
  else
    let e := if 0 < d.freePlaces then (d.pushReply h .busy [] false).count .busyReplies 1 else d.count .ordersDropped 1
    { e with cp := { e.cp with rx := .order h false repeated } }

/-- An ORDER header has been examined (R6, R7, R13). -/
def Device.orderHeader (d : Device) (h : OrderHeader) : Device :=
  let e := d.abortOpen []
  if orderHeaderValid h then
    if h.dest = 0 then (e.emit [.start (orderHeaderBytes h)]).queueOrder h true
    else if h.dest = d.cp.chainId then e.queueOrder h false
    else
      let e := e.emit [.start (orderHeaderBytes h)]
      { e with cp := { e.cp with rx := .order h false true } }
  else
    let e := e.count .downBadParcels 1
    { e with cp := { e.cp with rx := .refused } }

/-- ORDER_PARCEL_HEADER. -/
def execOrderParcelHeader (hdr : OrderHeader) (s : State) : Host.Outcome State Fault Refusal :=
  s.run (fun d => d.onDown (fun d => d.orderHeader hdr))

/-- The arriving order is complete (R14). -/
def OrderPlace.completeWith (body : List Word) : OrderPlace → OrderPlace
  | .arriving h => .complete { hdr := h, body := body }
  | .complete o => .complete o

/-- The tail answers an addressed order for another ID (R12). -/
def Device.tailAnswer (d : Device) (h : OrderHeader) : Device :=
  if d.tailFlag && h.dest != 0 && h.dest != d.cp.chainId then d.chainReply h .noSuchDevice [] .repliesDropped else d

/-- The end marker of an ORDER parcel (R3, R6, R12, R14). -/
def Device.orderEnd (d : Device) (bs : List Byte) : Device :=
  match d.cp.rx with
  | .order h queued repeated =>
    let n := 4 * h.words.toNat
    let e := (if repeated then d.emit (bodyTx bs ++ [.endMarker]) else d).rxIdle
    match judgeEnd (orderHeaderBytes h) n bs with
    | .good =>
      let body := takeWords h.words.toNat bs
      let e := if queued then { e with cp := { e.cp with orderQ := e.cp.orderQ.map (OrderPlace.completeWith body) } } else e
      e.tailAnswer h
    | .badLength => e.dropArriving.count .downBadParcels 1
    | .badCrc => e.dropArriving.count .downCrcErrors 1
  | .idle => d
  | .line _ _ => d
  | .number _ _ => d
  | .refused => d

/-- ORDER_PARCEL_END. -/
def execOrderParcelEnd (bytes : List Byte) (s : State) : Host.Outcome State Fault Refusal :=
  s.run (fun d => d.onDown (fun d => d.orderEnd bytes))

/-! ### NUMBER parcels (R9, R11) -/

/-- The chain ID that value v gives in CONFIG (R9). -/
def numberedId (v : Byte) : Byte := if 1 ≤ v.toNat ∧ v.toNat ≤ 15 then v else 0

/-- The value sent on: min(v + 1, 255) (R9). -/
def nextNumber (v : Byte) : Byte := BitVec.ofNat 8 (min (v.toNat + 1) 255)

/-- The rebuilt NUMBER parcel (R9). -/
def numberTx (v : Byte) : List DownTx := [.start (numberHeaderBytes v), .bytes (crcBytes (numberHeaderBytes v)), .endMarker]

/-- A NUMBER parcel is accepted (R9, R11). -/
def Device.acceptNumber (d : Device) (v : Byte) : Device :=
  let e := if d.jobActive then d.setEvent .numberIgnored else { d with cp := { d.cp with chainId := numberedId v } }
  let e := e.emit (numberTx (nextNumber v))
  if e.tailFlag then
    e.chainReply { dest := 0, tag := 0, code := 0, words := 0 } .ok [BitVec.ofNat 32 v.toNat] .repliesDropped else e

/-- The header of a NUMBER parcel has arrived: the parcel is held for rebuilding (R7, R9). -/
def Device.openNumber (d : Device) (v : Byte) : Device :=
  let e := d.abortOpen []
  { e with cp := { e.cp with rx := .number v true } }

/-- The end marker of a NUMBER parcel (R3, R9). One that a RESET order discarded is judged and counted like every parcel of the lane, but
neither taken nor repeated (R21; log 12). -/
def Device.closeNumber (d : Device) (bs : List Byte) : Device :=
  match d.cp.rx with
  | .number v held =>
    match judgeEnd (numberHeaderBytes v) 0 bs with
    | .good => if held then d.rxIdle.acceptNumber v else d.rxIdle
    | .badLength => d.rxIdle.count .downBadParcels 1
    | .badCrc => d.rxIdle.count .downCrcErrors 1
  | .idle => d
  | .line _ _ => d
  | .order _ _ _ => d
  | .refused => d

/-- A NUMBER parcel, or a part of one. At its end marker the value is that of the parcel held, which `value` repeats (log 12). -/
def Device.number (d : Device) (value : Byte) (part : NumberPart) : Device :=
  match part with
  | .whole bs => (d.openNumber value).closeNumber bs
  | .opened => d.openNumber value
  | .closed bs => d.closeNumber bs

/-- NUMBER_PARCEL. -/
def execNumberParcel (value : Byte) (part : NumberPart) (s : State) : Host.Outcome State Fault Refusal :=
  s.run (fun d => d.onDown (fun d => d.number value part))

/-! ### The return lane (R1, R10, R16) -/

/-- A return-lane event that a LOST lane ignores (R1). -/
def Device.onReturn (d : Device) (f : Device → Device) : Device := if d.cp.returnSync = .inSync then f d else d

/-- The parcel being received on return-in, if it is stored, is discarded and counted (R16); nothing is being received then. -/
def Device.discardReturn (d : Device) : Device :=
  let e := match d.cp.returnRx with
    | .storing => d.count .returnErrors 1
    | .idle => d
    | .ignoring => d
  { e with cp := { e.cp with returnRx := .idle } }

/-- RETURN_IN_SYNC: the lane enters IN_SYNC, which clears the tail flag (R1, R10). -/
def execReturnInSync (s : State) : Host.Outcome State Fault Refusal :=
  s.run (fun d => { d with cp := { d.cp with returnSync := .inSync } })

/-- Return-in enters LOST (R10, R16). -/
def Device.returnLost (d : Device) : Device :=
  let e := d.discardReturn
  { e with cp := { e.cp with returnSync := .lost } }

/-- RETURN_IN_LOST. -/
def execReturnInLost (s : State) : Host.Outcome State Fault Refusal := s.run (fun d => d.onReturn Device.returnLost)

/-- RETURN_SYMBOL_ERROR (R1, R2, R16). -/
def execReturnSymbolError (s : State) : Host.Outcome State Fault Refusal :=
  s.run (fun d => d.onReturn (fun d => (d.count .returnErrors 1).discardReturn))

/-- A start marker on return-in (R16); an open parcel ends as aborted (R2). -/
def Device.returnStart (d : Device) : Device :=
  let e := d.discardReturn
  if e.cp.returnQ.length < Config.returnPlaces then { e with cp := { e.cp with returnRx := .storing } }
  else
    let e := (e.setEvent .returnOverflow).count .returnOverflows 1
    { e with cp := { e.cp with returnRx := .ignoring } }

/-- RETURN_PARCEL_START. -/
def execReturnParcelStart (s : State) : Host.Outcome State Fault Refusal := s.run (fun d => d.onReturn Device.returnStart)

/-- The closing marker of a return-in parcel (R16). -/
def Device.returnEnd (d : Device) (bs : List Byte) (closing : Closing) : Device :=
  match d.cp.returnRx with
  | .storing =>
    if closing = .endMarker ∧ returnParcelGood bs then
      { d with cp := { d.cp with returnQ := d.cp.returnQ ++ [bs], returnRx := .idle } }
    else d.discardReturn
  | .idle => d
  | .ignoring => d.discardReturn

/-- RETURN_PARCEL_END. -/
def execReturnParcelEnd (bytes : List Byte) (closing : Closing) (s : State) : Host.Outcome State Fault Refusal :=
  s.run (fun d => d.onReturn (fun d => d.returnEnd bytes closing))

/-! ### The up lane (R17, R38) -/

/-- The last symbol of the parcel on the up lane out has gone: its place is free and its source is the one served last; the RESET
order's reply lets the reset take effect (R17, R38). -/
def Device.upSent (d : Device) : Device :=
  match d.cp.upSending with
  | some .replyQueue =>
    if (d.cp.replies.head?).any (·.endsReset) then d.softReset
    else { d with cp := { d.cp with replies := d.cp.replies.tail, upSending := none, upLast := .replyQueue } }
  | some .returnBuffer =>
    { d with cp := { d.cp with returnQ := d.cp.returnQ.tail, upSending := none, upLast := .returnBuffer } }
  | none => d

/-- UP_LANE_PARCEL_SENT. -/
def execUpLaneParcelSent (s : State) : Host.Outcome State Fault Refusal := s.run Device.upSent

end Sys2Proof.Machine
end

