-- ==== Sys2Proof/Machine/Orders.lean ====
section
/-! DEFINITION. The Order Unit: taking an order, and the meaning of every order (02; 05, section 5.7; 07, sections 7.1 to 7.3; 09,
sections 9.1 and 9.2). The order's words stand in the order queue, so these commands have no operand (log 2). -/

namespace Sys2Proof.Machine

/-! ### Taking an order (R14, R22, R23) -/

/-- The order the Order Unit may take: the oldest, complete, with a FREE reply place and no order in execution (R14, R22). -/
def Device.takeable (d : Device) : Option OrderParcel :=
  if d.ou.exec = none ∧ 0 < d.freePlaces then
    match d.cp.orderQ with
    | .complete o :: _ => some o
    | _ => none
  else none

/-- Take the oldest order if it is of the kind given, and execute it; otherwise the event does not occur (log 1, log 2). -/
def Device.takeOrder (d : Device) (kind : OrderParcel → Bool) (run : OrderParcel → Device → Device) : Device :=
  match d.takeable with
  | some o => if kind o then run o { d with cp := { d.cp with orderQ := d.cp.orderQ.tail } } else d
  | none => d

/-- An order's code. -/
def OrderParcel.isCode (o : OrderParcel) (code : Nat) : Bool := o.hdr.code.toNat == code

/-- The order's body length fits its code (R23). -/
def OrderParcel.fits (o : OrderParcel) : Bool := bodyFits o.hdr.code o.body.length

/-- An order whose body length does not fit is answered with BAD_ORDER (R23). -/
def checkedBody (run : OrderParcel → Device → Device) (o : OrderParcel) (d : Device) : Device :=
  if o.fits then run o d else d.reply o.hdr .badOrder []

/-- UNKNOWN_ORDER_CODE (R23). -/
def execUnknownOrderCode (s : State) : Host.Outcome State Fault Refusal :=
  s.run (fun d => d.takeOrder (fun o => !knownCode o.hdr.code) (fun o d => d.reply o.hdr .badOrder []))

/-! ### READ (R26, R27, R96, R97) -/

/-- Effect of a READ of a table other than 10 (R26, R27). -/
def readOrder (o : OrderParcel) (d : Device) : Device :=
  if 10 < o.table then d.reply o.hdr .badTable []
  else if o.count = 0 ∨ 64 < o.count ∨ !d.rangeOk o.table o.start o.count then d.reply o.hdr .badIndex []
  else d.reply o.hdr .ok (d.readRange o.table o.start o.count)

/-- A READ that is not a window read. -/
def OrderParcel.isRead (o : OrderParcel) : Bool := o.isCode 1 && !(o.fits && o.table == 10)

/-- READ. -/
def execRead (s : State) : Host.Outcome State Fault Refusal :=
  s.run (fun d => d.takeOrder OrderParcel.isRead (checkedBody readOrder))

/-- Effect of a READ of table 10: the head and word fields are checked, and a window read is raised (R96). -/
def readWindowOrder (o : OrderParcel) (d : Device) : Device :=
  if o.count = 0 ∨ 64 < o.count ∨ !d.windowRangeOk o.start o.count then d.reply o.hdr .badIndex []
  else
    let w : WindowRead :=
      { port := portN (o.start / 1048576), position := o.start / 256 % 4096, word := o.start % 256, count := o.count }
    { d with ou := { d.ou with exec := some (.windowRead o.hdr) }, ls := { d.ls with window := some w } }

/-- A READ of table 10. -/
def OrderParcel.isReadWindow (o : OrderParcel) : Bool := o.isCode 1 && o.fits && o.table == 10

/-- READ_WINDOW. -/
def execReadWindow (s : State) : Host.Outcome State Fault Refusal :=
  s.run (fun d => d.takeOrder OrderParcel.isReadWindow (checkedBody readWindowOrder))

/-- Memory word `k` of a slot, its first byte most significant (05, section 5.7). -/
def memoryWord (m : List Host.Cell) (addr k : Nat) : Word :=
  wordOf (readByte m (addr + 4 * k)) (readByte m (addr + 4 * k + 1)) (readByte m (addr + 4 * k + 2)) (readByte m (addr + 4 * k + 3))

/-- Word `i` of a slot's window (05, section 5.7). -/
def windowWord (m : List Host.Cell) (record0 record1 : Word) (addr i : Nat) : Word :=
  match i with
  | 0 => record0
  | 1 => record1
  | k + 2 => memoryWord m addr k

/-- First memory byte a window read reaches, and how many. -/
def WindowRead.span (w : WindowRead) (addr : Nat) : Nat × Nat :=
  (addr + 4 * (max w.word 2 - 2), 4 * (max (w.word + w.count) 2 - max w.word 2))

/-- The window read in service completes: the READ's reply holds the words of its range (R97). -/
def Device.windowDone (d : Device) (w : WindowRead) (record0 record1 : Word) (addr : Nat) : Device :=
  let words := (List.range w.count).map (fun k => windowWord d.mem record0 record1 addr (w.word + k))
  let e := { d with ls := { d.ls with service := none } }
  match d.ou.exec with
  | some (.windowRead h) => e.finishExec h .ok words
  | _ => e

/-- WINDOW_READ_COMPLETE: a window read is in service and completes (R97). -/
def execWindowReadComplete (s : State) : Host.Outcome State Fault Refusal :=
  match s.dev.ls.service with
  | some (.window w r0 r1 addr) =>
    if installed s.dev.ou.memory (w.span addr).1 (w.span addr).2 then s.run (fun d => d.windowDone w r0 r1 addr)
    else .fault (.absentMemory (w.span addr).1)
  | _ => s.run id

/-! ### WRITE (R26, R28, R39) -/

/-- Index `i` lies in the range of a WRITE to a table. -/
def OrderParcel.writes (o : OrderParcel) (table i : Nat) : Bool :=
  o.table == table && o.start ≤ i && i < o.start + o.data.length

/-- The enabled word was written (R159). -/
def Device.afterEnabled (d : Device) (p : PortIx) : Device :=
  if (d.head p).enabled then
    if (d.port p).state = .disabled then
      d.modPort p (fun hp => { hp with state := if hp.sync = .inSync then .unloaded else .down })
    else d
  else if (d.port p).state = .disabled then d
  else d.quenchPort p .disabled

/-- The test mode was written, `old` the mode before: generators are reseeded on entering PRBS (R171), and a change of the kind of
mode drops stages (R152). -/
def Device.afterTestMode (d : Device) (p : PortIx) (old : TestMode) : Device :=
  let new := (d.head p).testMode
  let e := if new = .prbs ∧ old ≠ .prbs then d.modPort p (fun hp => { hp with prbs := .replicate 4 (BitVec.allOnes 15) }) else d
  if old.fetches = new.fetches then e else allRows.foldl (fun e r => e.rowModeChanged p r) e

/-- The settle time was written: holds whose release time has now come are released (R149). -/
def Device.afterSettle (d : Device) (p : PortIx) : Device :=
  allRows.foldl (fun e r => if e.holdDue p r then e.releaseHold p r else e) d

/-- What a WRITE of a port's words brings about besides storing them (R39, R136, R152, R159, R162, R173; log 17). -/
def Device.afterPort (d : Device) (o : OrderParcel) (old : Tables) (p : PortIx) : Device :=
  let d := if o.writes 2 (16 * p.val) then d.afterEnabled p else d
  let d := if o.writes 2 (16 * p.val + 3) then d.clearDisabledRows p else d
  let d := if o.writes 2 (16 * p.val + 13) then d.afterTestMode p (vget old.heads p).testMode else d
  let d := if o.writes 2 (16 * p.val + 15) then d.afterSettle p else d
  let d := if o.writes 2 (16 * p.val + 14) then d.restartTickle p else d
  if (List.range 32).any (fun k => o.writes 6 (32 * p.val + k)) && (d.port p).state == .ready then d.leaveReady p .unloaded else d

/-- The encoder filter was written: the new setting applies from the next tick (R99; log 30). -/
def Device.afterFilter (d : Device) (old : Nat) : Device :=
  let kept := match d.pu.filterOld with
    | some (f, t) => if d.now ≤ t then f else old
    | none => old
  { d with pu := { d.pu with filterOld := some (kept, d.now) } }

/-- CLAMPED_WRITE is set and counted (R28). -/
def Device.clamped (d : Device) : Device := (d.setEvent .clampedWrite).count .clampedWrites 1

/-- The words of a WRITE are stored and act (R28, R39). -/
def Device.applyWrite (d : Device) (o : OrderParcel) : Device :=
  let x := d.storeWords o.table o.start o.data
  let e := if x.2 then x.1.clamped else x.1
  let e := if o.writes 1 2 then e.afterFilter d.tab.job.filter else e
  allPorts.foldl (fun e p => e.afterPort o d.tab p) e

/-- Effect of a WRITE: table, range, permission of every word, then storing (R26, R28). Table 10 has no range check for a WRITE: it is
LOCKED whatever ring stands there (R26; 05, section 5.7; log 15). -/
def writeOrder (o : OrderParcel) (d : Device) : Device :=
  if 10 < o.table then d.reply o.hdr .badTable []
  else if o.table ≠ 10 ∧ !d.rangeOk o.table o.start o.data.length then d.reply o.hdr .badIndex []
  else if (List.range o.data.length).all (fun k => writable d.pc.job o.table (o.start + k)) then
    (d.applyWrite o).reply o.hdr .ok []
  else d.reply o.hdr .locked []

/-- A WRITE. -/
def OrderParcel.isWrite (o : OrderParcel) : Bool := o.isCode 2

/-- A WRITE whose range holds word `w` of some head descriptor. -/
def OrderParcel.writesDescr (o : OrderParcel) (w : Nat) : Bool := o.isWrite && allPorts.any (fun p => o.writes 2 (16 * p.val + w))

/-- A WRITE of waveforms. -/
def OrderParcel.writesWaves (o : OrderParcel) : Bool := o.isWrite && o.table == 6

/-- A WRITE whose range holds a mask word. -/
def OrderParcel.writesMask (o : OrderParcel) : Bool := o.isWrite && (List.range 17).any (fun k => o.writes 8 (17 + k))

/-- WRITE. -/
def execWrite (s : State) : Host.Outcome State Fault Refusal :=
  s.run (fun d => d.takeOrder OrderParcel.isWrite (checkedBody writeOrder))

/-- WRITE_ENABLED_WORD: a WRITE that touches an enabled word (R159). -/
def execWriteEnabledWord (s : State) : Host.Outcome State Fault Refusal :=
  s.run (fun d => d.takeOrder (·.writesDescr 0) (checkedBody writeOrder))

/-- WRITE_WAVEFORMS: a WRITE of table 6 (R162). -/
def execWriteWaveforms (s : State) : Host.Outcome State Fault Refusal :=
  s.run (fun d => d.takeOrder OrderParcel.writesWaves (checkedBody writeOrder))

/-- WRITE_TEST_MODE: a WRITE that touches a test mode (R152). -/
def execWriteTestMode (s : State) : Host.Outcome State Fault Refusal :=
  s.run (fun d => d.takeOrder (·.writesDescr 13) (checkedBody writeOrder))

/-- WRITE_SETTLE_TIME: a WRITE that touches a settle time (R149, R163). -/
def execWriteSettleTime (s : State) : Host.Outcome State Fault Refusal :=
  s.run (fun d => d.takeOrder (·.writesDescr 15) (checkedBody writeOrder))

/-- WRITE_IDLE_TICKLE_INTERVAL: a WRITE that touches an idle tickle interval (R173). -/
def execWriteIdleTickleInterval (s : State) : Host.Outcome State Fault Refusal :=
  s.run (fun d => d.takeOrder (·.writesDescr 14) (checkedBody writeOrder))

/-- WRITE_MASK: a WRITE that touches a mask word (R31, R32). -/
def execWriteMask (s : State) : Host.Outcome State Fault Refusal :=
  s.run (fun d => d.takeOrder OrderParcel.writesMask (checkedBody writeOrder))

/-! ### READ_CLEAR (R26, R33, R35) -/

/-- A counter of table 7 loses exactly the value it held (R35). -/
def OrderUnit.clearCounter (u : OrderUnit) (i : Nat) : OrderUnit :=
  if i < 64 then (if h : i < 19 then { u with devCounts := vset u.devCounts ⟨i, h⟩ 0 } else u)
  else if h : (i - 64) % 32 < 13 then
    { u with headCounts := vmod u.headCounts (portN ((i - 64) / 32)) (fun b => vset b ⟨(i - 64) % 32, h⟩ 0) }
  else u

/-- An event word of table 8 loses exactly the bits it was returned with (R33). -/
def OrderUnit.clearEvents (u : OrderUnit) (i : Nat) : OrderUnit :=
  if i = 0 then { u with devEvents := u.devEvents &&& ~~~ u.devEventWord }
  else if i ≤ 16 then { u with headEvents := vmod u.headEvents (portN (i - 1)) (fun w => w &&& ~~~ w) }
  else u

/-- Apply a clearing to every index of a range. -/
def OrderUnit.clearRange (u : OrderUnit) (clear : OrderUnit → Nat → OrderUnit) (start count : Nat) : OrderUnit :=
  (List.range count).foldl (fun v k => clear v (start + k)) u

/-- Effect of a READ_CLEAR: tables 7 and 8 alone (R26, R33, R35). -/
def readClearOrder (o : OrderParcel) (d : Device) : Device :=
  if o.table ≠ 7 ∧ o.table ≠ 8 then d.reply o.hdr .badTable []
  else if o.count = 0 ∨ 64 < o.count ∨ !d.rangeOk o.table o.start o.count then d.reply o.hdr .badIndex []
  else
    let words := d.readRange o.table o.start o.count
    let clear := if o.table = 7 then OrderUnit.clearCounter else OrderUnit.clearEvents
    ({ d with ou := d.ou.clearRange clear o.start o.count }).reply o.hdr .ok words

/-- A READ_CLEAR not addressed to the events. -/
def OrderParcel.isClearCounters (o : OrderParcel) : Bool := o.isCode 3 && !(o.fits && o.table == 8)

/-- A READ_CLEAR of the events. -/
def OrderParcel.isClearEvents (o : OrderParcel) : Bool := o.isCode 3 && o.fits && o.table == 8

/-- READ_CLEAR_COUNTERS (R35). A READ_CLEAR that names another table but 8 is refused here (log 2). -/
def execReadClearCounters (s : State) : Host.Outcome State Fault Refusal :=
  s.run (fun d => d.takeOrder OrderParcel.isClearCounters (checkedBody readClearOrder))

/-- READ_CLEAR_EVENTS (R33). -/
def execReadClearEvents (s : State) : Host.Outcome State Fault Refusal :=
  s.run (fun d => d.takeOrder OrderParcel.isClearEvents (checkedBody readClearOrder))

/-! ### Jobs (R119 to R123) -/

/-- The rings of a job: one for each enabled head (R83). -/
def Device.establishRings (d : Device) : Device :=
  { d with ls := { d.ls with rings := Vector.ofFn (fun p =>
    if (d.head p).enabled then some (Ring.establish (d.head p)) else none) } }

/-- An accepted START_JOB (R120). A row in a pattern mode hands its first line over at once, even where a frame of the ended job is
still at its port (log 39). -/
def Device.startJob (d : Device) : Device :=
  let e := ((d.endPipelines false).flush.establishRings).startPosition
  let pc : PageControl := { d.pc.remove (fun _ => true) with
    job := .run
    boundLimit := none
    anchor := none
    bindingMade := false
    qualifier := none
    report := none }
  ({ e with ib := .empty, pc := pc }).prepareAll

/-- Effect of START_JOB (R119, R120). -/
def startOrder (o : OrderParcel) (d : Device) : Device :=
  if d.jobActive then d.reply o.hdr .notConfig []
  else
    match d.startFault with
    | some (why, port) => d.reply o.hdr .badSetting [wordN why.code, wordN port]
    | none => d.startJob.reply o.hdr .ok []

/-- START_JOB. -/
def execStartJob (s : State) : Host.Outcome State Fault Refusal :=
  s.run (fun d => d.takeOrder (·.isCode 4) (checkedBody startOrder))

/-- The landing in flight belongs to one of the tags (R78). -/
def Device.landingOf (d : Device) (tags : List Tag) : Bool := d.le.any (fun g => tags.contains g.copy.hdr.tag)

/-- STOP_JOB in RUN (R78, R91, R121). -/
def Device.stopJob (d : Device) : Device :=
  let tags := (d.pc.queue.filter PageRec.isAnnounced).map (·.tag)
  let e := d.modRings (Ring.removeTags · tags)
  let e := if d.landingOf tags then e.abandonLanding else e
  let pc : PageControl := { d.pc.remove PageRec.isAnnounced with anchor := none }
  if pc.queue = [] then ({ e with pc := pc }).endStopping else { e with pc := { pc with job := .stopping } }

/-- Effect of STOP_JOB (R121). -/
def stopOrder (o : OrderParcel) (d : Device) : Device :=
  match d.pc.job with
  | .config => d.reply o.hdr .notRunning []
  | .stopping => d.reply o.hdr .ok []
  | .run => d.stopJob.reply o.hdr .ok []

/-- STOP_JOB. -/
def execStopJob (s : State) : Host.Outcome State Fault Refusal :=
  s.run (fun d => d.takeOrder (·.isCode 5) (checkedBody stopOrder))

/-- ABORT_JOB in RUN or STOPPING (R123, R155). -/
def Device.abortJob (d : Device) : Device :=
  let e := ((d.endPipelines false).flush.calmRows).setEvent .jobStopped
  let pc : PageControl := { d.pc.remove (fun _ => true) with
    job := .config
    qualifier := none
    boundLimit := none
    anchor := none }
  { e with ib := .empty, pc := pc }

/-- Effect of ABORT_JOB (R123). -/
def abortOrder (o : OrderParcel) (d : Device) : Device :=
  if d.jobActive then d.abortJob.reply o.hdr .ok [] else d.reply o.hdr .ok []

/-- ABORT_JOB. -/
def execAbortJob (s : State) : Host.Outcome State Fault Refusal :=
  s.run (fun d => d.takeOrder (·.isCode 6) (checkedBody abortOrder))

/-! ### Pages (R125, R128) -/

/-- The record of an ANNOUNCE (R125). -/
def announcedRec (tag : Tag) (length : Nat) : PageRec :=
  { tag := tag, length := max 1 length, state := .announced, starved := 0, skipped := 0 }

/-- An accepted ANNOUNCE (R125). -/
def Device.announcePage (d : Device) (tag : Tag) (length : Nat) : Device :=
  let e := { d with pc := { d.pc with queue := d.pc.queue ++ [announcedRec tag length] } }
  if length = 0 then e.clamped else e

/-- Effect of ANNOUNCE (R125). -/
def announceOrder (o : OrderParcel) (d : Device) : Device :=
  if d.pc.job ≠ .run then d.reply o.hdr .notRunning []
  else if d.pc.queue.any (fun q => q.tag == o.pageTag) then d.reply o.hdr .dupTag []
  else if Config.pagePlaces ≤ d.pc.queue.length then d.reply o.hdr .queueFull []
  else (d.announcePage o.pageTag o.pageLength).reply o.hdr .ok []

/-- ANNOUNCE. -/
def execAnnounce (s : State) : Host.Outcome State Fault Refusal :=
  s.run (fun d => d.takeOrder (·.isCode 7) (checkedBody announceOrder))

/-- The reply word of GO (R128). -/
def TriggerOutcome.word : TriggerOutcome → Word
  | .bound tag => wordN (256 * tag.toNat)
  | .withoutPage => 1
  | .early => 2

/-- Effect of GO (R128). -/
def goOrder (o : OrderParcel) (d : Device) : Device :=
  if d.jobActive then
    let x := d.trigger .go
    x.1.reply o.hdr .ok [x.2.word]
  else d.reply o.hdr .notRunning []

/-- GO. -/
def execGo (s : State) : Host.Outcome State Fault Refusal :=
  s.run (fun d => d.takeOrder (·.isCode 8) (checkedBody goOrder))

/-! ### Head ports (R164, R176) -/

/-- Effect of LOAD_WAVES: it stays in execution until every load it started has ended (R164, R165). -/
def loadWavesOrder (o : OrderParcel) (d : Device) : Device :=
  if d.jobActive then d.reply o.hdr .notConfig []
  else
    let e := allPorts.foldl (fun e p => if o.names p then e.startLoad p else e) d
    ({ e with ou := { e.ou with exec := some (.loadWaves o.hdr) } }).checkLoads

/-- LOAD_WAVES. -/
def execLoadWaves (s : State) : Host.Outcome State Fault Refusal :=
  s.run (fun d => d.takeOrder (·.isCode 9) (checkedBody loadWavesOrder))

/-- A PARKED port is unparked (R176). -/
def HeadPort.unpark (hp : HeadPort) : HeadPort :=
  if hp.state = .parked then { hp with state := .unloaded, silent := 0, fault := none } else hp

/-- Effect of UNPARK (R176). -/
def unparkOrder (o : OrderParcel) (d : Device) : Device :=
  let e := allPorts.foldl (fun e p => if o.names p then e.modPort p HeadPort.unpark else e) d
  e.reply o.hdr .ok e.statusWords

/-- UNPARK. -/
def execUnpark (s : State) : Host.Outcome State Fault Refusal :=
  s.run (fun d => d.takeOrder (·.isCode 10) (checkedBody unparkOrder))

/-! ### RESET (R38) -/

/-- Effect of RESET: its reply is filled at once, and it stays in execution until that reply has been sent (R38). -/
def resetOrderEffect (o : OrderParcel) (d : Device) : Device :=
  let e := d.pushReply o.hdr .ok [] true
  { e with ou := { e.ou with exec := some .reset } }

/-- RESET. -/
def execResetOrder (s : State) : Host.Outcome State Fault Refusal :=
  s.run (fun d => d.takeOrder (·.isCode 11) (checkedBody resetOrderEffect))

end Sys2Proof.Machine
end

