-- ==== Sys2Proof/Machine/Dispatch.lean ====
section
/-! DEFINITION. The effect of a command on everything but the queue: one arm per command. -/

namespace Sys2Proof.Machine

def exec (i : Instr) (s : State) : Host.Outcome State Fault Refusal :=
  match i with
  | .resetPinAssert => Sys2Proof.Machine.execResetPinAssert s
  | .resetPinRelease straps => Sys2Proof.Machine.execResetPinRelease straps s
  | .downLaneSync => Sys2Proof.Machine.execDownLaneSync s
  | .downLaneLost part => Sys2Proof.Machine.execDownLaneLost part s
  | .downSymbolError part => Sys2Proof.Machine.execDownSymbolError part s
  | .downParcelAborted part => Sys2Proof.Machine.execDownParcelAborted part s
  | .shortHeaderParcel => Sys2Proof.Machine.execShortHeaderParcel s
  | .lineParcelHeader hdr => Sys2Proof.Machine.execLineParcelHeader hdr s
  | .lineParcelEnd bytes => Sys2Proof.Machine.execLineParcelEnd bytes s
  | .orderParcelHeader hdr => Sys2Proof.Machine.execOrderParcelHeader hdr s
  | .orderParcelEnd bytes => Sys2Proof.Machine.execOrderParcelEnd bytes s
  | .numberParcel value part => Sys2Proof.Machine.execNumberParcel value part s
  | .badKindParcel kind => Sys2Proof.Machine.execBadKindParcel kind s
  | .returnInSync => Sys2Proof.Machine.execReturnInSync s
  | .returnInLost => Sys2Proof.Machine.execReturnInLost s
  | .returnSymbolError => Sys2Proof.Machine.execReturnSymbolError s
  | .returnParcelStart => Sys2Proof.Machine.execReturnParcelStart s
  | .returnParcelEnd bytes closing => Sys2Proof.Machine.execReturnParcelEnd bytes closing s
  | .upLaneParcelSent => Sys2Proof.Machine.execUpLaneParcelSent s
  | .unknownOrderCode => Sys2Proof.Machine.execUnknownOrderCode s
  | .read => Sys2Proof.Machine.execRead s
  | .readWindow => Sys2Proof.Machine.execReadWindow s
  | .windowReadComplete => Sys2Proof.Machine.execWindowReadComplete s
  | .write => Sys2Proof.Machine.execWrite s
  | .writeEnabledWord => Sys2Proof.Machine.execWriteEnabledWord s
  | .writeWaveforms => Sys2Proof.Machine.execWriteWaveforms s
  | .writeTestMode => Sys2Proof.Machine.execWriteTestMode s
  | .writeSettleTime => Sys2Proof.Machine.execWriteSettleTime s
  | .writeIdleTickleInterval => Sys2Proof.Machine.execWriteIdleTickleInterval s
  | .writeMask => Sys2Proof.Machine.execWriteMask s
  | .readClearCounters => Sys2Proof.Machine.execReadClearCounters s
  | .readClearEvents => Sys2Proof.Machine.execReadClearEvents s
  | .startJob => Sys2Proof.Machine.execStartJob s
  | .stopJob => Sys2Proof.Machine.execStopJob s
  | .abortJob => Sys2Proof.Machine.execAbortJob s
  | .announce => Sys2Proof.Machine.execAnnounce s
  | .go => Sys2Proof.Machine.execGo s
  | .loadWaves => Sys2Proof.Machine.execLoadWaves s
  | .unpark => Sys2Proof.Machine.execUnpark s
  | .resetOrder => Sys2Proof.Machine.execResetOrder s
  | .pickup => Sys2Proof.Machine.execPickup s
  | .landingWriteRaised => Sys2Proof.Machine.execLandingWriteRaised s
  | .landingWriteComplete => Sys2Proof.Machine.execLandingWriteComplete s
  | .rowFetchComplete => Sys2Proof.Machine.execRowFetchComplete s
  | .filteredTransition order => Sys2Proof.Machine.execFilteredTransition order s
  | .interpolationTimerExpiry port row => Sys2Proof.Machine.execInterpolationTimerExpiry port row s
  | .holdRelease port row => Sys2Proof.Machine.execHoldRelease port row s
  | .pdiLevelChange level => Sys2Proof.Machine.execPdiLevelChange level s
  | .pdiQualifyExpiry => Sys2Proof.Machine.execPdiQualifyExpiry s
  | .frameSent port => Sys2Proof.Machine.execFrameSent port s
  | .fireTokenSent port => Sys2Proof.Machine.execFireTokenSent port s
  | .headReturnLaneSync port => Sys2Proof.Machine.execHeadReturnLaneSync port s
  | .headReturnLaneLost port => Sys2Proof.Machine.execHeadReturnLaneLost port s
  | .ack port byte => Sys2Proof.Machine.execAck port byte s
  | .waveAck port byte => Sys2Proof.Machine.execWaveAck port byte s
  | .headFault port bytes => Sys2Proof.Machine.execHeadFault port bytes s
  | .loadTimerExpiry port => Sys2Proof.Machine.execLoadTimerExpiry port s
  | .idleTickleExpiry port => Sys2Proof.Machine.execIdleTickleExpiry port s
  | .encoderInputChange channel level => Sys2Proof.Machine.execEncoderInputChange channel level s
  | .symbolBoundary port => Sys2Proof.Machine.execSymbolBoundary port s

end Sys2Proof.Machine
end

