-- ==== Sys2Proof/Machine/Step.lean ====
section
/-! DEFINITION. One step of the machine: the command at the front of the queue; on an empty queue the clock (log 3). -/

namespace Sys2Proof.Machine

/-- The command at the front of the queue runs on the device with the queue's rest; on an empty queue the timed event that is due runs,
and where none is, a tick passes (log 3). -/
def step (s : State) : Host.Outcome State Fault Refusal :=
  match s.pending with
  | i :: rest => exec i { s with pending := rest }
  | [] =>
    match s.dev.nextDue with
    | some i => exec i s
    | none => .next { s with dev := s.dev.tick }

/-- The state with the command that a word spells at the front of its queue; no word spells a command. -/
def State.withFetchWord (s : State) (nbits w : Nat) : State :=
  match decodeTableWord nbits w with
  | some i => { s with pending := i :: s.pending }
  | none => s

end Sys2Proof.Machine
end

