-- ==== Sys2Proof/Safety.lean ====
section
/-! DEFINITION. The properties of the device that every step keeps: sizes of queues, ranges of registers, the canonical memory, the
arbiters' readiness, and rows at rest where no port prints. -/

namespace Sys2Proof.Machine

/-- The chain ID is 0 to 15 (R9). -/
abbrev Device.chainIdLegal (d : Device) : Prop := d.cp.chainId.toNat ≤ 15

/-- Places of the return buffer in use: the complete parcels and the one being stored (R16). -/
def ChainPort.returnPlaces (c : ChainPort) : Nat := c.returnQ.length + (if c.returnRx = .storing then 1 else 0)

/-- No queue holds more than its places: orders 4 (R13), replies 4 with the RESERVED one (R15), return buffer 8 (R16), page queue
16 (R124). -/
abbrev Device.queuesFit (d : Device) : Prop :=
  d.cp.orderQ.length ≤ 4 ∧ d.cp.replies.length + Exec.reserved d.ou.exec ≤ 4 ∧ d.cp.returnPlaces ≤ 8 ∧ d.pc.queue.length ≤ 16

/-- Phase, reverse debt, line pitch ratio and fine offsets lie in their ranges (R104, R102, R30, R46). -/
abbrev Device.webInRange (d : Device) : Prop :=
  d.pu.phase ≤ 65535 ∧ d.pu.debt ≤ 1048576 ∧ d.tab.job.pitchRatio ≤ 65536 ∧ ∀ p r, (rget d.tab.rows p r).fine ≤ 255

/-- Both arbiters have made their choice: no raised fetch stands outside its queue (R93), no request waits at a free memory port
(R94), and no parcel waits at a free up lane (R17). -/
abbrev Device.settled (d : Device) : Prop :=
  d.ls.fetchRaised = [] ∧
  (d.ls.service = none → d.ls.fetchQ = [] ∧ d.ls.writeQ = [] ∧ d.ls.window = none) ∧
  (d.cp.upSending = none → d.cp.replies = [] ∧ d.cp.returnQ = [])

/-- No ring holds more slots than its capacity (R84, R86). -/
abbrev Device.ringsFit (d : Device) : Prop := ∀ p : PortIx, (d.ring p).all (fun g => g.slots.length ≤ g.capacity) = true

/-- Every sparse map lists its keys strictly rising: the memory, the dither tiles, the nozzle statuses, the keep-wet ages. -/
abbrev Device.mapsRise (d : Device) : Prop :=
  Memory.wf d.mem ∧ (∀ k : Fin 8, rising (vget d.tab.planes k).dither = true) ∧
  ∀ p : PortIx, rising (vget d.tab.nozzles p) = true ∧ rising (d.port p).ages = true

/-- Every silent counter lies in 0 to 128 (R174). -/
abbrev Device.silentInRange (d : Device) : Prop := ∀ p : PortIx, (d.port p).silent ≤ 128

/-- A pipeline holds nothing: stage EMPTY, latch CLEAR, no hold (R136, R153). -/
abbrev Pipeline.atRest (q : Pipeline) : Prop := q.stage = .empty ∧ q.latch = .clear ∧ q.hold = none

/-- A row that is not printing is at rest: it is not enabled (R136), or its port is not READY (R153). -/
abbrev Device.passingAtRest (d : Device) : Prop :=
  ∀ (p : PortIx) (r : RowIx), d.rowEnabled p r = false ∨ (d.port p).state ≠ .ready → (d.pipe p r).atRest

/-- The Intake Buffer holds no more than its 262,144 bytes: the complete copies, the one being filled and the one being landed (R18,
R19). -/
abbrev Device.intakeFits (d : Device) : Prop :=
  (d.ib.complete.map (fun c => intakeSpace c.hdr)).sum + (d.ib.filling.map intakeSpace).getD 0 +
    (d.le.map (fun g => intakeSpace g.copy.hdr)).getD 0 ≤ 262144

/-- The request in service is a write of the landing in flight. -/
def LineStore.writing (ls : LineStore) : Bool :=
  match ls.service with
  | some (.landWrite w) => w.live
  | some (.fetch _) => false
  | some (.window _ _ _ _) => false
  | none => false

/-- The landing write queue holds writes of the landing in flight alone, at most 16 with those still to come (R75, R93). -/
abbrev Device.writesFit (d : Device) : Prop :=
  (∀ w ∈ d.ls.writeQ, w.live = true) ∧
  (d.le = none → d.ls.writeQ = [] ∧ d.ls.writing = false) ∧
  ∀ g ∈ d.le, d.ls.writeQ.length + g.toRaise.length + (if d.ls.writing then 1 else 0) = g.incomplete ∧ g.incomplete ≤ 16

/-- A FETCHING stage (08, section 8.1). -/
def Stage.isFetching : Stage → Bool
  | .fetching _ _ => true
  | .waiting _ _ => false
  | .staged _ _ => false
  | .empty => false

/-- A LOAD_WAVES is in execution. -/
def Exec.loads : Option Exec → Bool
  | some (.loadWaves _) => true
  | some (.windowRead _) => false
  | some .reset => false
  | none => false

/-- A fetch of a port's row. -/
def Fetch.isFor (f : Fetch) (p : PortIx) (r : RowIx) : Bool := f.port == p && f.row == r

/-- A fetch of a port's row whose data is not to be dropped is in service. -/
def LineStore.fetchingFor (ls : LineStore) (p : PortIx) (r : RowIx) : Bool :=
  match ls.service with
  | some (.fetch f) => f.live && f.isFor p r
  | some (.landWrite _) => false
  | some (.window _ _ _ _) => false
  | none => false

/-- The row fetch queue holds at most 64 fetches, one for each row (R93). What keeps it so stands beside it: a port is LOADING only in
CONFIG, under a LOAD_WAVES in execution (R164, R165); every stage is EMPTY in CONFIG (R154 to R156); and in a job a printing row whose
stage is not FETCHING, or whose fetch is in service, has no fetch waiting (R138, R141, R142). -/
abbrev Device.fetchesFit (d : Device) : Prop :=
  d.ls.fetchQ.length ≤ 64 ∧
  (∀ p, (d.port p).state = .loading → d.pc.job = .config ∧ Exec.loads d.ou.exec = true) ∧
  (d.pc.job = .config → ∀ p r, (d.pipe p r).stage = .empty) ∧
  (∀ p r, (d.ls.fetchQ.filter (fun f => f.isFor p r)).length ≤ 1) ∧
  (d.pc.job ≠ .config → ∀ p r, d.printing p r = true → (d.pipe p r).stage.isFetching = false ∨ d.ls.fetchingFor p r = true →
    d.ls.fetchQ.all (fun f => !f.isFor p r) = true)

/-- The RESET pin is released and both arbiters have chosen: how a command finds the device in every run. -/
abbrev Device.working (d : Device) : Prop := d.resetPin = false ∧ d.settled

/-! ### What both resets leave (R21, R36, R57, R79, R98, R115, R135, R157, R177) -/

/-- The Order Unit, the tables and the stores as both resets leave them. -/
abbrev Device.storesCleared (d : Device) : Prop :=
  d.ib = { complete := [], filling := none } ∧ d.ou.exec = none ∧ d.ou.devEvents = 0 ∧ d.ou.headEvents = .replicate 16 0 ∧
  d.ou.devMask = 0 ∧ d.ou.headMasks = .replicate 16 0 ∧ d.ou.devCounts = .replicate 19 0 ∧
  d.ou.headCounts = .replicate 16 (.replicate 13 0) ∧ d.tab = .default ∧ d.le = none ∧ d.ls.rings = .replicate 16 none ∧
  d.ls.fetchQ = [] ∧ d.ls.fetchRaised = [] ∧ d.ls.writeQ = [] ∧ d.ls.window = none ∧ d.ls.service = none

/-- The Chain Port's queues, the web, the pages and the rows as both resets leave them. -/
abbrev Device.runCleared (d : Device) : Prop :=
  d.cp.orderQ = [] ∧ d.cp.replies = [] ∧ d.cp.returnQ = [] ∧ d.cp.upSending = none ∧ d.cp.upLast = .replyQueue ∧
  d.pu.debt = 0 ∧ d.pu.phase = 0 ∧ d.pu.count = 0 ∧ d.pu.reference = none ∧ d.pu.intervalValid = false ∧
  d.pu.rows = .replicate 16 (.replicate 4 { crossing := none, position := none, timer := none, taken := false }) ∧
  d.pc.job = .config ∧ d.pc.queue = [] ∧ d.pc.boundLimit = none ∧ d.pc.anchor = none ∧ d.pc.qualifier = none ∧
  d.pc.report = none ∧
  d.rf = .replicate 16 (.replicate 4
    { stage := .empty, missing := false, latch := .clear, hold := none, lastFire := d.now })

/-- A Head Port as both resets leave it, its return lane's sync state given (R177). -/
def clearedPort (sync : LaneSync) : HeadPort :=
  { state := .disabled, sync := sync, current := .idle, tokens := [], progress := none, frames := [], lastRow := 3,
    ages := [], prbs := .replicate 4 0x7FFF, tickleAt := none, silent := 0, fault := none, loadAt := none,
    acked := .replicate 4 false }

/-! ### Counters (R34) -/

/-- The value of a device counter. -/
def Device.counter (d : Device) (c : DevCounter) : Word := vget d.ou.devCounts c.index

/-- The value of a head counter. -/
def Device.headCounter (d : Device) (p : PortIx) (c : HeadCounter) : Word := vget (vget d.ou.headCounts p) c.index

/-- Every device counter of `b` is that of `a` raised by `add`, at most to 4,294,967,295 (R34). -/
def counted (a b : Device) (add : DevCounter → Nat) : Prop :=
  ∀ c, (b.counter c).toNat = min ((a.counter c).toNat + add c) 4294967295

/-- Every head counter of `b` is that of `a` raised by `add`, at most to 4,294,967,295 (R34). -/
def headCounted (a b : Device) (add : PortIx → HeadCounter → Nat) : Prop :=
  ∀ p c, (b.headCounter p c).toNat = min ((a.headCounter p c).toNat + add p c) 4294967295

/-! ### The end of an open down-lane parcel as aborted (R2, R3, R8) -/

/-- How many parcels end as aborted that no rule has counted: the one whose header was examined, and one that was open before its
header was. -/
def DownRx.abortCount (rx : DownRx) (part : DownPart) : Nat :=
  (match rx with
    | .line _ counted => if counted then 0 else 1
    | .order _ _ _ => 1
    | .number _ _ => 1
    | .idle => 0
    | .refused => 0) + (if part = .headerless then 1 else 0)

/-- What goes out for a repeated parcel that ends early: the bytes received since its header, then abort-end. -/
def DownRx.abortTx (rx : DownRx) (part : DownPart) : List DownTx :=
  let out := (match part with
    | .afterHeader (b :: bs) => [.bytes (b :: bs)]
    | .afterHeader [] => []
    | .between => []
    | .headerless => []) ++ [.abortEnd]
  match rx with
  | .line _ _ => out
  | .order _ _ repeated => if repeated then out else []
  | .number _ _ => []
  | .idle => []
  | .refused => []

/-- The order queue without the order still arriving, where an order was open. -/
def DownRx.abortQueue (rx : DownRx) (q : List OrderPlace) : List OrderPlace :=
  match rx with
  | .order _ _ _ => q.filter OrderPlace.isComplete
  | .line _ _ => q
  | .number _ _ => q
  | .idle => q
  | .refused => q

/-- The Intake Buffer without the copy being filled, where a line was open. -/
def DownRx.abortIntake (rx : DownRx) (ib : Intake) : Intake :=
  match rx with
  | .line _ _ => { ib with filling := none }
  | .order _ _ _ => ib
  | .number _ _ => ib
  | .idle => ib
  | .refused => ib

/-- The Chain Port after the open parcel ended as aborted. -/
def ChainPort.aborted (c : ChainPort) (part : DownPart) : ChainPort :=
  { c with rx := .idle, downOut := c.downOut ++ c.rx.abortTx part, orderQ := c.rx.abortQueue c.orderQ }

/-! ### The end of a NUMBER parcel (R9, R11, R21) -/

/-- `t` is `s` after the end marker of a NUMBER parcel of value `v`: `base` and `intake` are the Chain Port and the Intake Buffer as they
stood at it, `held` says whether the parcel was held still, and `aborted` parcels had ended as aborted. -/
def numberEnded (s t : State) (v : Byte) (bytes : List Byte) (held : Bool) (base : ChainPort) (intake : Intake) (aborted : Nat) : Prop :=
  let longEnough : Bool := bytes.length == 4
  let crcRight : Bool := bytes == crcBytes [4, v]
  let good := longEnough && crcRight
  let accepted := good && held
  let config : Bool := s.dev.pc.job == .config
  let tail : Bool := s.dev.cp.returnSync == .lost
  let free : Bool := s.dev.cp.replies.length + Exec.reserved s.dev.ou.exec < 4
  let sent : Byte := BitVec.ofNat 8 (min (v.toNat + 1) 255)
  let id : Byte := if accepted && config then (if 1 ≤ v.toNat ∧ v.toNat ≤ 15 then v else 0) else s.dev.cp.chainId
  let replied := accepted && tail && free
  t = { s with dev := { s.dev with
    cp := { base with
      chainId := id
      downOut := if accepted then base.downOut ++ [.start [4, sent], .bytes (crcBytes [4, sent]), .endMarker] else base.downOut
      replies := if replied then
          base.replies ++ [{ source := id, tag := 0, code := 0, status := .ok, body := [BitVec.ofNat 32 v.toNat], endsReset := false }]
        else base.replies
      upSending := if replied then some (base.upSending.getD .replyQueue) else base.upSending }
    ib := intake
    ou := { s.dev.ou with
      devEvents := if accepted && !config then s.dev.ou.devEvents ||| 4 else s.dev.ou.devEvents
      devCounts := t.dev.ou.devCounts } } } ∧
  counted s.dev t.dev (fun c =>
    if c = .downBadParcels then (if longEnough then 0 else 1)
    else if c = .downCrcErrors then (if longEnough && !crcRight then 1 else 0)
    else if c = .repliesDropped then (if accepted && tail && !free then 1 else 0)
    else if c = .downAborted then aborted else 0)

/-! ### Orders and replies (R13 to R15, R22, R24) -/

/-- The order `o` stands complete at the front of the order queue and the Order Unit may take it. -/
abbrev Device.offers (d : Device) (o : OrderParcel) (rest : List OrderPlace) : Prop :=
  d.working ∧ d.cp.orderQ = .complete o :: rest ∧ d.ou.exec = none ∧ d.cp.replies.length < 4

/-- The reply to an order (R24). -/
def answer (source : Byte) (h : OrderHeader) (st : Status) (body : List Word) : Reply :=
  { source := source, tag := h.tag, code := h.code, status := st, body := body, endsReset := false }

/-- The Chain Port after the order at the front was taken and answered: the reply is FILLED behind the others, and a free up lane
sends it (R15, R17, R22, R24). -/
def ChainPort.answered (c : ChainPort) (rest : List OrderPlace) (h : OrderHeader) (st : Status) (body : List Word) : ChainPort :=
  { c with
    orderQ := rest
    replies := c.replies ++ [answer c.chainId h st body]
    upSending := some (c.upSending.getD .replyQueue) }

/-- The Chain Port after an order was taken that stays in execution. -/
def ChainPort.taken (c : ChainPort) (rest : List OrderPlace) : ChainPort := { c with orderQ := rest }

/-- The state after the order at the front was taken and answered, and nothing else changed. -/
def State.answering (s : State) (rest : List OrderPlace) (h : OrderHeader) (st : Status) (body : List Word) : State :=
  { s with dev := { s.dev with cp := s.dev.cp.answered rest h st body } }

/-! ### Tables (02, section 2.3; R96) -/

/-- Words of tables 0 to 9. -/
def extents : List Nat := [6, 10, 256, 128, 2176, 32768, 512, 576, 34, 136]

/-- Words `start` to `start + count - 1` of a table numbered 0 to 9 lie within it. -/
abbrev withinTable (table start count : Nat) : Prop := start + count ≤ extents.getD table 0

/-- The words of a range of table 10 lie in one window of an established ring (R96). -/
abbrev Device.withinWindow (d : Device) (start count : Nat) : Prop :=
  ∃ g ∈ d.ring (portN (start / 1048576)), start % 256 + count ≤ 2 + g.slotBytes / 4 ∧ start % 256 + count ≤ 256

/-- Word `i` of a table may not be written in a job state (02, section 2.3; 03, section 3.1). -/
abbrev lockedWord (job : JobState) (table i : Nat) : Prop :=
  table = 0 ∨ table = 7 ∨ table = 9 ∨ table = 10 ∨ (table = 8 ∧ i ≤ 16) ∨ ((table = 1 ∨ table = 3 ∨ table = 6) ∧ job ≠ .config) ∨
    (table = 2 ∧ job ≠ .config ∧ i % 16 ≤ 12)

/-- The order is a WRITE that passes every check of R26. -/
abbrev Device.permits (d : Device) (o : OrderParcel) : Prop :=
  o.hdr.code = 2 ∧ 2 ≤ o.body.length ∧ o.body.length ≤ 65 ∧ 1 ≤ o.table ∧ o.table ≤ 8 ∧ o.table ≠ 7 ∧
    withinTable o.table o.start o.data.length ∧ ∀ k < o.data.length, ¬ lockedWord d.pc.job o.table (o.start + k)

/-- The rows of the opcode table that a WRITE answers to: WRITE itself, and those its range or table names (log 2). -/
inductive OrderParcel.IsRow (o : OrderParcel) : Instr → Prop where
  | write : o.IsRow .write
  | enabled (p : PortIx) : o.writes 2 (16 * p.val) = true → o.IsRow .writeEnabledWord
  | waveforms : o.table = 6 → o.IsRow .writeWaveforms
  | testMode (p : PortIx) : o.writes 2 (16 * p.val + 13) = true → o.IsRow .writeTestMode
  | settle (p : PortIx) : o.writes 2 (16 * p.val + 15) = true → o.IsRow .writeSettleTime
  | tickle (p : PortIx) : o.writes 2 (16 * p.val + 14) = true → o.IsRow .writeIdleTickleInterval
  | mask (i : Nat) : 17 ≤ i → i ≤ 33 → o.writes 8 i = true → o.IsRow .writeMask

/-! ### The memory port (R94) -/

/-- What the freed memory port serves next where no window read waits. -/
def LineStore.next (ls : LineStore) : Option Service :=
  match ls.fetchQ, ls.writeQ with
  | f :: _, _ => some (.fetch f)
  | [], w :: _ => some (.landWrite w)
  | [], [] => none

/-- The Line Store after a completion that raised nothing, where no window read waits. -/
def LineStore.freed (ls : LineStore) : LineStore :=
  { ls with
    service := ls.next
    fetchQ := ls.fetchQ.tail
    writeQ := if ls.fetchQ = [] then ls.writeQ.tail else ls.writeQ }

/-! ### Triggers and rows -/

/-- Position `a` stands at or behind `b` (R105). -/
abbrev notAhead (a b : Pos) : Prop := (a - b).toNat = 0 ∨ 2147483648 ≤ (a - b).toNat

/-- The page line of position `x`: it lies in the range B to B + length - 1 of a record in state BOUND or ACTIVE (R137). -/
def lineUnder (queue : List PageRec) (x : Pos) : Option PageLine :=
  let inPage := fun (q : PageRec) (b : Pos) =>
    if (x - b).toNat < q.length then some ({ tag := q.tag, line := (x - b).toNat } : PageLine) else none
  queue.findSome? (fun q => match q.state with
    | .announced => none
    | .bound b => inPage q b
    | .active b => inPage q b)

/-- The target of a row whose latch holds `latch` and that stands at `z` (R137). -/
def nextTarget (latch : Latch) (z : Pos) : Pos :=
  let beyond := fun y : Pos => if notAhead y z then z else y
  (match latch with
    | .clear => z
    | .sending y => beyond y
    | .loaded y => beyond y) + 1

/-- The stage and the target mark that a row of a head gets for target `x` (R138, R151). -/
def stageFor (h : HeadDescr) (pc : PageControl) (ring : Option Ring) (x : Pos) : Stage × Bool :=
  if h.testMode = .normal ∨ h.testMode = .mute then
    match lineUnder pc.queue x, ring with
    | some pl, some g =>
      match g.slots.find? (fun k => k.tag == pl.tag && k.line == pl.line) with
      | some k => (if k.state = .landed then .fetching x pl else .waiting x pl, false)
      | none =>
        if g.slots.any (fun k => pc.before pl { tag := k.tag, line := k.line }) then (.empty, true) else (.waiting x pl, false)
    | _, _ => (.empty, false)
  else (.staged x none, false)

/-- A row with its EMPTY stage filled (R139). -/
def Pipeline.filled (h : HeadDescr) (pc : PageControl) (ring : Option Ring) (z : Pos) (q : Pipeline) : Pipeline :=
  let x := stageFor h pc ring (nextTarget q.latch z)
  if q.stage = .empty then { q with stage := x.1, missing := x.2 } else q

/-- The line that a row hands to its port, with its codes: the STAGED one, where the latch is CLEAR (R143). -/
def Pipeline.toHand (q : Pipeline) : Option (Pos × Option (List Nat)) :=
  match q.latch, q.stage with
  | .clear, .staged x codes => some (x, codes)
  | _, _ => none

/-- A printing row of a running job made ready: its stage filled, its line handed over where the latch is CLEAR, and the stage
filled again (R139, R143). -/
def Pipeline.prepared (h : HeadDescr) (pc : PageControl) (ring : Option Ring) (z : Pos) (q : Pipeline) : Pipeline :=
  let f := q.filled h pc ring z
  match f.toHand with
  | some x => ({ f with stage := .empty, latch := .sending x.1 }).filled h pc ring z
  | none => f

/-- A row after its hold was released at tick `now`: the held line is fired, and a printing row hands a STAGED line over, its stage filled
again in a job (R139, R143, R149). -/
def Pipeline.released (h : HeadDescr) (pc : PageControl) (ring : Option Ring) (z : Pos) (now : Nat) (printing : Bool) (q : Pipeline) :
    Pipeline :=
  let f := { q with latch := .clear, hold := none, lastFire := now }
  match printing, f.toHand with
  | true, some x =>
    let g := { f with stage := .empty, latch := .sending x.1 }
    if pc.job = .config then g else g.filled h pc ring z
  | _, _ => f

/-- A fetch of a row's block of the slot of a page line is raised, waiting or in service (R95, R138). -/
def Device.fetchAsked (d : Device) (p : PortIx) (r : RowIx) (g : Ring) (pl : PageLine) : Prop :=
  ∃ (f : Fetch) (i : Nat) (k : Slot), (f ∈ d.ls.fetchRaised ∨ f ∈ d.ls.fetchQ ∨ d.ls.service = some (.fetch f)) ∧
    g.slots[i]? = some k ∧ k.tag = pl.tag ∧ k.line = pl.line ∧
    f = { port := p, row := r, tag := pl.tag, line := pl.line, len := g.blockBytes, live := true
          addr := g.base * 1048576 + (g.oldest + i) % g.capacity * g.slotBytes + r.val * g.blockBytes }

/-- A base is early: behind the bound limit, or at or behind the position of an enabled row (R129). -/
def Device.early (d : Device) (base : Pos) : Prop :=
  (∃ l ∈ d.pc.boundLimit, 2147483648 ≤ (base - l).toNat) ∨
    ∃ p r x, d.rowEnabled p r = true ∧ (d.rowPos p r).position = some x ∧ notAhead base x

/-- The base of a trigger at the line count of device `d` (R129). -/
def Device.triggerBase (d : Device) : Pos := d.pu.count + BitVec.ofNat 32 d.tab.job.offset

/-- What every judgement of a trigger leaves as it was. -/
abbrev Device.sameAtTrigger (a b : Device) : Prop :=
  b.tab = a.tab ∧ b.mem = a.mem ∧ b.ib = a.ib ∧ b.le = a.le ∧ b.pu = a.pu ∧ b.ls.rings = a.ls.rings ∧ b.now = a.now ∧
  b.ou.headEvents = a.ou.headEvents ∧ b.ou.headCounts = a.ou.headCounts ∧ b.ou.devMask = a.ou.devMask ∧
  b.ou.headMasks = a.ou.headMasks

/-- What a binding of record `q` makes of device `a`, leaving `b`: the record BOUND, the bound limit and the anchor set, every printing
row with an EMPTY stage resolved again, its fetch raised (R127, R129, R138, R139). -/
def pageBound (a b : Device) (q : PageRec) : Prop :=
  b.ou.devEvents = a.ou.devEvents ∧ counted a b (fun _ => 0) ∧
  b.pc = { a.pc with
    queue := bindOldest a.triggerBase a.pc.queue
    boundLimit := some (a.triggerBase + BitVec.ofNat 32 q.length + BitVec.ofNat 32 a.tab.job.gap)
    anchor := if a.tab.job.source = .pitch then some a.triggerBase else a.pc.anchor
    bindingMade := true
    qualifier := if a.tab.job.source = .pitch then none else a.pc.qualifier } ∧
  (∀ p r, b.pipe p r = if a.printing p r then (a.pipe p r).prepared (a.head p) b.pc (a.ring p) (a.standing p r) else a.pipe p r) ∧
  (∀ p, (∀ r, a.printing p r = true → (((a.pipe p r).filled (a.head p) b.pc (a.ring p) (a.standing p r)).toHand = none)) →
    b.port p = a.port p) ∧
  (∀ p r g x pl, a.ring p = some g → (b.pipe p r).stage = .fetching x pl → (a.pipe p r).stage = .empty → b.fetchAsked p r g pl)

/-- What a GO or PDI trigger makes of device `a`, leaving `b`, and the reply word that names the outcome (R128, R129). -/
def triggerJudged (a b : Device) (word : Word) : Prop :=
  a.sameAtTrigger b ∧
  match a.pc.queue.find? PageRec.isAnnounced with
  | none =>
    word = 1 ∧ b.pc = a.pc ∧ b.rf = a.rf ∧ b.hp = a.hp ∧ b.ls = a.ls ∧ b.ou.devEvents = a.ou.devEvents ||| 256 ∧
      counted a b (fun c => if c = .triggersWithoutPage then 1 else 0)
  | some q =>
    (a.early a.triggerBase → word = 2 ∧ b.pc = a.pc ∧ b.rf = a.rf ∧ b.hp = a.hp ∧ b.ls = a.ls ∧
      b.ou.devEvents = a.ou.devEvents ||| 1024 ∧ counted a b (fun c => if c = .earlyTriggers then 1 else 0)) ∧
    (¬ a.early a.triggerBase → word = BitVec.ofNat 32 (256 * q.tag.toNat) ∧ pageBound a b q)

/-- What a global line event makes of device `a`, leaving `b`: under source PITCH in RUN, at the line count anchor + pitch - offset, a
PITCH trigger, which refused moves the anchor on by the pitch; else nothing (R127, R129). -/
def pitchJudged (a b : Device) : Prop :=
  let job := a.tab.job
  match a.pc.anchor with
  | none => b = a
  | some anchor =>
    let falls := job.source = .pitch ∧ a.pc.job = .run ∧ a.pu.count = anchor + BitVec.ofNat 32 job.pitch - BitVec.ofNat 32 job.offset
    let refused := fun (event : Word) (counter : DevCounter) =>
      b = { a with
        pc := { a.pc with anchor := some (anchor + BitVec.ofNat 32 job.pitch) }
        ou := { a.ou with devEvents := a.ou.devEvents ||| event, devCounts := b.ou.devCounts } } ∧
      counted a b (fun c => if c = counter then 1 else 0)
    (¬ falls → b = a) ∧
    (falls → match a.pc.queue.find? PageRec.isAnnounced with
      | none => refused 512 .missedPitches
      | some q =>
        (a.early a.triggerBase → refused 1024 .earlyTriggers) ∧
        (¬ a.early a.triggerBase → a.sameAtTrigger b ∧ pageBound a b q))

/-! ### Row line events (R130 to R132, R142, R145 to R148) -/

/-- What becomes of the line at a row line event. -/
inductive LineFate where
  | untouched
  | skipped
  | fired
  | held
  | starved
deriving DecidableEq, Repr

/-- What becomes of line `x` at a row's line event: nothing for a row that does not print, or at a gap position in a fetch mode; else a
row with a hold skips it, a row whose latch is LOADED with it fires it or holds it by the MFI, and any other row starves it (R145 to
R148, R151, R153). -/
def Device.lineFate (d : Device) (p : PortIx) (r : RowIx) (x : Pos) : LineFate :=
  let h := d.head p
  let q := d.pipe p r
  if d.printing p r = false ∨ ((h.testMode = .normal ∨ h.testMode = .mute) ∧ lineUnder d.pc.queue x = none) then .untouched
  else if q.hold.isSome then .skipped
  else if q.latch = .loaded x then
    if q.lastFire + 5 * (longestWaveform (vget d.tab.waves p) + h.settle) ≤ d.now then .fired else .held
  else .starved

/-- A LOADED latch (08, section 8.1). -/
def Latch.isLoaded (l : Latch) : Bool :=
  match l with
  | .loaded _ => true
  | .sending _ => false
  | .clear => false

/-- A row after the decision (R146 to R148). -/
def Pipeline.decided (now : Nat) (x : Pos) (fate : LineFate) (q : Pipeline) : Pipeline :=
  match fate with
  | .untouched => q
  | .skipped => q
  | .fired => { q with latch := .clear, hold := none, lastFire := now }
  | .held => { q with hold := some x }
  | .starved => if q.latch.isLoaded then { q with latch := .clear } else q

/-- A WAITING or STAGED stage at or behind `x` is dropped (R142). -/
def Stage.overtaken (x : Pos) (g : Stage) : Stage :=
  match g with
  | .waiting t _ => if notAhead t x then .empty else g
  | .staged t _ => if notAhead t x then .empty else g
  | .fetching _ _ => g
  | .empty => g

/-- A row after the decision and the dropping of a passed stage. -/
def Device.rowDecided (d : Device) (p : PortIx) (r : RowIx) (x : Pos) : Pipeline :=
  let q := (d.pipe p r).decided d.now x (d.lineFate p r x)
  if d.printing p r then { q with stage := q.stage.overtaken x } else q

/-- A port after a row's decision: a fired line raises FIRE and restarts the idle tickle timer, a starved one has a passed line in the
latch discarded (R147, R148, R173). -/
def Device.portDecided (d : Device) (p : PortIx) (r : RowIx) (x : Pos) : HeadPort :=
  let hp := d.port p
  match d.lineFate p r x with
  | .untouched => hp
  | .skipped => hp
  | .held => hp
  | .fired => { hp with
      tokens := hp.tokens ++ [.fire r]
      tickleAt := if (d.head p).tickleMs = 0 then none else some (d.now + (d.head p).tickleMs * 100000) }
  | .starved => if (d.pipe p r).latch.isLoaded then { hp with tokens := hp.tokens ++ [.discard r] } else hp

/-- The page queue at a row line event at `x`: the record of a starved or skipped line counts it, and a BOUND record whose base stands
at or behind `x` is ACTIVE (R130, R132). -/
def Device.pagesAt (d : Device) (p : PortIx) (r : RowIx) (x : Pos) : List PageRec :=
  let fate := d.lineFate p r x
  let plus := fun (w : Word) (lost : LineFate) => if fate = lost then BitVec.ofNat 32 (min (w.toNat + 1) 4294967295) else w
  d.pc.queue.map (fun q =>
    let mine := (lineUnder d.pc.queue x).any (fun pl => pl.tag == q.tag)
    { q with
      starved := if mine then plus q.starved .starved else q.starved
      skipped := if mine then plus q.skipped .skipped else q.skipped
      state := match q.state with
        | .announced => .announced
        | .active b => .active b
        | .bound b => if notAhead b x then .active b else .bound b })

/-- With the row at `x`, every enabled row of the device has a current position at or ahead of `y` (R129, R131). -/
def Device.allReach (d : Device) (p : PortIx) (r : RowIx) (x y : Pos) : Bool :=
  allPortRows.all (fun k => !d.rowEnabled k.1 k.2 ||
    (if k = (p, r) then some x else (d.rowPos k.1 k.2).position).any (fun z => decide ((z - y).toNat < 2147483648)))

/-- With the row at `x`, a record has a base and every enabled row has reached its last line (R131). -/
def Device.pageOver (d : Device) (p : PortIx) (r : RowIx) (x : Pos) (q : PageRec) : Bool :=
  match q.state with
  | .announced => false
  | .bound b => d.allReach p r x (b + BitVec.ofNat 32 q.length - 1)
  | .active b => d.allReach p r x (b + BitVec.ofNat 32 q.length - 1)

/-- The records that a row line event finishes, oldest first (R131). -/
def Device.pagesOver (d : Device) (p : PortIx) (r : RowIx) (x : Pos) : List PageRec :=
  (d.pagesAt p r x).takeWhile (d.pageOver p r x)

/-- The row line event finishes the last record of a stopping job (R122). -/
abbrev Device.jobOver (d : Device) (p : PortIx) (r : RowIx) (x : Pos) : Prop :=
  d.pc.job = .stopping ∧ d.pagesAt p r x ≠ [] ∧ d.pagesOver p r x = d.pagesAt p r x

/-! ### Frames (R167, R170 to R172) -/

/-- A generator's register after `n` steps: one place toward bit 14, the exclusive or of bits 14 and 13 into bit 0 (R171). -/
def prbsAfter (g : BitVec 15) : Nat → BitVec 15
  | 0 => g
  | n + 1 =>
    let x := prbsAfter g n
    x.extractLsb' 0 14 ++ BitVec.ofBool (x.getLsbD 14 != x.getLsbD 13)

/-- What keep-wet makes of a nozzle's code and age: the code sent and the age after (R172). -/
def keptWet (threshold code age : Nat) : Nat × Nat :=
  if code ≠ 0 then (code, 0)
  else if threshold ≤ min 255 (age + 1) then (4, 0) else (0, min 255 (age + 1))

/-- What a hand-over makes of a port: a frame with the codes of the test mode and keep-wet joins the waiting ones, and nothing but the
row's generator in PRBS and the ages of the row's columns under keep-wet changes (R170 to R172). -/
def HeadPort.took (hp : HeadPort) (h : HeadDescr) (r : RowIx) (t : Pos) (codes : Option (List Nat)) (k : HeadPort) : Prop :=
  let M := h.nozzlesPerRow
  let column := fun n => n * h.rowCount + r.val
  ∃ cs : List Nat,
    k = { hp with
      frames := hp.frames ++ [{ row := r, stale := false, left := frameSyms r t cs }]
      ages := k.ages
      prbs := k.prbs } ∧
    (h.testMode ≠ .prbs → k.prbs = hp.prbs) ∧
    (h.keepWet = 0 ∨ (h.testMode ≠ .normal ∧ h.testMode ≠ .mute) → k.ages = hp.ages) ∧
    (h.testMode = .normal ∨ h.testMode = .mute →
      let image := if h.testMode = .normal then codes.getD (List.replicate M 0) else List.replicate M 0
      (h.keepWet = 0 → cs = image) ∧
      (h.keepWet ≠ 0 → cs.length = image.length ∧
        (∀ (n : Nat) (c : Nat), image[n]? = some c →
          (cs[n]?, numAt k.ages (column n)) = (some (keptWet h.keepWet c (numAt hp.ages (column n))).1,
            (keptWet h.keepWet c (numAt hp.ages (column n))).2)) ∧
        (∀ j, (∀ n < image.length, column n ≠ j) → numAt k.ages j = numAt hp.ages j))) ∧
    (h.testMode = .flood → cs = List.replicate M 3) ∧
    (h.testMode = .ladder → cs = (List.range M).map (fun n => if t.toNat % h.ladderK = column n % h.ladderK then 2 else 0)) ∧
    (h.testMode = .prbs →
      let g := prbsAfter (vget hp.prbs r)
      let out := fun n : Nat => ((g n).getLsbD 14 != (g n).getLsbD 13).toNat
      k.prbs = vset hp.prbs r (g (2 * M)) ∧ cs = (List.range M).map (fun n => 2 * out (2 * n) + out (2 * n + 1)))

/-- The codes that the nibbles behind a frame's start stand for (R166). -/
def nibbleCodes : List Nat → List Nat
  | 0xE :: a :: b :: rest => List.replicate (16 * a + b + 8) 0 ++ nibbleCodes rest
  | c :: rest => c :: nibbleCodes rest
  | [] => []

/-! ### Ports and rows that stop -/

/-- A port after it left READY with its lane in sync, in a state given: frames gone, every token but DISCARD withdrawn, DISCARD raised
for every enabled row, the idle tickle timer stopped (R160; log 40). -/
def HeadPort.left (hp : HeadPort) (rowCount : Nat) (enabled : Bool) (st : PortState) : HeadPort :=
  { hp with
    state := st
    progress := none
    frames := []
    tickleAt := none
    tokens := hp.tokens.filter (fun k => match k with
        | .discard _ => true
        | .fire _ => false
        | .tickleAll => false
        | .waveform _ _ => false) ++
      (if enabled then (allRows.filter (fun r => decide (r.val < rowCount))).map Token.discard else []) }

/-- A port whose lane went silent, in a state given: nothing sent or waiting but idle fill, timers stopped (R159, R161). -/
def HeadPort.silenced (hp : HeadPort) (st : PortState) : HeadPort :=
  { hp with state := st, current := .idle, tokens := [], progress := none, frames := [], tickleAt := none, loadAt := none }

/-- A port whose load ended by its timer or by parking, in a state given: waiting WAVEFORM tokens withdrawn (R165). -/
def HeadPort.loadEnded (hp : HeadPort) (st : PortState) : HeadPort :=
  { hp with
    state := st
    loadAt := none
    tokens := hp.tokens.filter (fun k => match k with
      | .waveform _ _ => false
      | .fire _ => true
      | .discard _ => true
      | .tickleAll => true) }

/-- A port after an occurrence of a parking condition, its head's auto-park and rows given (R176). -/
def HeadPort.parkedBy (hp : HeadPort) (h : HeadDescr) : HeadPort :=
  if h.autoPark = false then hp
  else match hp.state with
    | .ready => hp.left h.rowCount h.enabled .parked
    | .loading => hp.loadEnded .parked
    | .unloaded => { hp with state := .parked }
    | .parked => hp
    | .disabled => hp
    | .down => hp

/-- Device `b`, after a change of ports that may have ended a load, answers device `a`'s LOAD_WAVES exactly when no port is LOADING
any more (R165). -/
def loadsAnswered (a b : Device) : Prop :=
  ((∀ h, a.ou.exec ≠ some (.loadWaves h)) ∨ (∃ p, (b.port p).state = .loading) → b.cp = a.cp ∧ b.ou.exec = a.ou.exec) ∧
  (∀ h, a.ou.exec = some (.loadWaves h) → (∀ p, (b.port p).state ≠ .loading) → b.ou.exec = none ∧
    b.cp.replies = a.cp.replies ++ [answer a.cp.chainId h .ok (allPorts.map (fun p => (b.port p).statusWord))])

/-- The rows of a port that left READY: emptied, their last fire times kept (R153; the target mark: log 47). -/
def Pipeline.emptied (q : Pipeline) : Pipeline := { stage := .empty, missing := false, latch := .clear, hold := none, lastFire := q.lastFire }

/-- A row after the passage into CONFIG: emptied, but that a held line stays where holds are kept (R155, R156). -/
def Pipeline.jobEnded (keepHeld : Bool) (q : Pipeline) : Pipeline :=
  if keepHeld && q.hold.isSome then { q with stage := .empty, missing := false } else q.emptied

/-- A port after the passage into CONFIG, its rows before it given: DISCARD raised, in READY, for each row with a LOADED line that is
not kept; frames still at the port only raise DISCARD when sent (R155, R156). -/
def HeadPort.jobEnded (keepHeld : Bool) (rows : RowIx → Pipeline) (hp : HeadPort) : HeadPort :=
  { hp with
    frames := hp.frames.map (fun f => { f with stale := true })
    progress := hp.progress.map (fun f => { f with stale := true })
    tokens := hp.tokens ++ (if hp.state = .ready then
        (allRows.filter (fun r => (rows r).latch.isLoaded && !(keepHeld && (rows r).hold.isSome))).map Token.discard
      else []) }

/-- A row of the Position Unit at the passage into CONFIG (R117). -/
def RowPosition.jobEnded (q : RowPosition) : RowPosition := { q with timer := none, taken := false }

/-- The codes a frame symbol stands for (R166). -/
def FrameSym.codes (x : FrameSym) : List Nat :=
  match x with
  | .start _ _ => []
  | .code c => [c]
  | .zeroRun c => List.replicate (c + 8) 0

/-- Device `b` is device `a` but for its rows, its ports and its Line Store. -/
abbrev Device.sameButRows (a b : Device) : Prop := b = { a with rf := b.rf, hp := b.hp, ls := b.ls }

end Sys2Proof.Machine
end

