-- ==== Sys2Proof/Certificates/Slice0/Obligations.lean ====
section
/-! DEFINITION. The statements about the device for the provers, by the families of its commands. -/

open Sys2Proof Sys2Proof.Machine

/-! ### The machine -/

/-- A step with a command at the front of the queue is that command's effect on the device, with the queue's rest. Rests on log 1. -/
def Obligations.StepRunsFrontCommand : Prop :=
  ∀ (s : State) (c : Instr) (rest : List Instr), s.pending = c :: rest → step s = exec c { s with pending := rest }

/-- No command changes the queue of commands. Rests on log 1. -/
def Obligations.ExecKeepsQueue : Prop := ∀ (c : Instr) (s t : State), exec c s = .next t → t.pending = s.pending

/-- While the RESET pin is asserted, no command but its release and the levels of the inputs changes anything (log 4). -/
def Obligations.NothingActsUnderResetPin : Prop :=
  ∀ (c : Instr) (s : State), s.dev.resetPin = true → s.dev.ls.service = none → (∀ m, c ≠ .resetPinRelease m) →
    (∀ ch l, c ≠ .encoderInputChange ch l) → (∀ l, c ≠ .pdiLevelChange l) → exec c s = .next s

/-! ### Resets -/

/-- State.reset is the device after the release of the RESET pin: every block cleared, tables at their defaults, chain ID 0, both
chain lanes and every return lane LOST, the tail flag set, ALERT released; and it has every property that steps keep. The strapped size
and the clock's start are log 5's, the memory's form log 7's. -/
def Obligations.ResetStateCleared : Prop :=
  State.reset.pending = [] ∧ State.reset.dev.resetPin = false ∧ State.reset.dev.cp.chainId = 0 ∧
  State.reset.dev.cp.downSync = .lost ∧ State.reset.dev.cp.returnSync = .lost ∧ State.reset.dev.tailFlag = true ∧
  State.reset.dev.alert = false ∧ State.reset.dev.storesCleared ∧ State.reset.dev.runCleared ∧
  (∀ p, State.reset.dev.port p = clearedPort .lost) ∧ State.reset.dev.mapsRise ∧ State.reset.dev.webInRange ∧
  State.reset.dev.silentInRange ∧ State.reset.dev.queuesFit ∧ State.reset.dev.ringsFit ∧ State.reset.dev.intakeFits ∧
  State.reset.dev.writesFit ∧ State.reset.dev.fetchesFit ∧ State.reset.dev.passingAtRest ∧ State.reset.dev.working

/-- RESET_PIN_ASSERT holds every block at its reset state and releases ALERT; memory changes only where a landing write in service was
abandoned, and there each byte is the old one or the written one. RESET_PIN_RELEASE reads the straps and starts every block from its
reset state with the inputs' levels and the memory as they are. Rests on logs 4, 6, 8 and 11. -/
def Obligations.ResetPinClears : Prop :=
  (∀ s : State, s.dev.resetPin = false →
    ∃ t, exec .resetPinAssert s = .next t ∧ t.pending = s.pending ∧ t.dev.resetPin = true ∧ t.dev.alert = false ∧
      t.dev.cp.chainId = 0 ∧ t.dev.cp.downSync = .lost ∧ t.dev.cp.returnSync = .lost ∧ t.dev.cp.rx = .idle ∧
      t.dev.cp.returnRx = .idle ∧ t.dev.cp.downOut = s.dev.cp.downOut ∧ t.dev.ou.memory = s.dev.ou.memory ∧ t.dev.now = s.dev.now ∧
      t.dev.storesCleared ∧ t.dev.runCleared ∧ (∀ p, t.dev.port p = clearedPort .lost) ∧
      (∀ a, (∀ w, s.dev.ls.service = some (.landWrite w) → a < w.addr ∨ w.addr + w.bytes.length ≤ a) →
        readByte t.dev.mem a = readByte s.dev.mem a) ∧
      (∀ w, s.dev.ls.service = some (.landWrite w) → ∀ (i : Nat) (h : i < w.bytes.length),
        readByte t.dev.mem (w.addr + i) = readByte s.dev.mem (w.addr + i) ∨ readByte t.dev.mem (w.addr + i) = w.bytes[i])) ∧
  (∀ (s : State) (m : MemSize), s.dev.resetPin = true →
    ∃ t, exec (.resetPinRelease m) s = .next t ∧ t.pending = s.pending ∧ t.dev.resetPin = false ∧ t.dev.ou.memory = m ∧
      t.dev.mem = s.dev.mem ∧ t.dev.now = s.dev.now ∧ t.dev.freeCount = s.dev.freeCount ∧ t.dev.cp.downOut = s.dev.cp.downOut ∧
      t.dev.cp.chainId = 0 ∧ t.dev.cp.downSync = .lost ∧ t.dev.cp.returnSync = .lost ∧ t.dev.cp.rx = .idle ∧
      t.dev.cp.returnRx = .idle ∧ t.dev.storesCleared ∧ t.dev.runCleared ∧ (∀ p, t.dev.port p = clearedPort .lost) ∧
      t.dev.pu.chA = .settled s.dev.pu.chA.sampled ∧ t.dev.pu.chB = .settled s.dev.pu.chB.sampled ∧
      t.dev.pu.pair = (s.dev.pu.chA.sampled, s.dev.pu.chB.sampled) ∧ t.dev.pc.pdi = s.dev.pc.pdi)

/-! ### The down lane -/

/-- A valid idle on a receiving lane of the chain brings it to IN_SYNC and changes nothing else; the tail flag follows return-in. -/
def Obligations.IdleBringsSync : Prop :=
  ∀ s : State, s.dev.working →
    exec .downLaneSync s = .next { s with dev := { s.dev with cp := { s.dev.cp with downSync := .inSync } } } ∧
    (∃ t, exec .returnInSync s = .next t ∧ t = { s with dev := { s.dev with cp := { s.dev.cp with returnSync := .inSync } } } ∧
      t.dev.tailFlag = false)

/-- The three ends of a parcel as aborted on an IN_SYNC down lane: loss of sync, an invalid symbol, an abort-end or an early start
marker. The open parcel is counted once in DOWN_ABORTED, closed downstream with abort-end where it was being repeated, and its copies
go; each end adds its own event and counter. Rests on logs 11, 12 and 13. -/
def Obligations.DownParcelEndsAborted : Prop :=
  ∀ (s : State) (part : DownPart), s.dev.working → s.dev.cp.downSync = .inSync →
    (∃ t, exec (.downLaneLost part) s = .next t ∧
      t = { s with dev := { s.dev with
        cp := { s.dev.cp.aborted part with downSync := .lost }
        ib := s.dev.cp.rx.abortIntake s.dev.ib
        ou := { s.dev.ou with devEvents := s.dev.ou.devEvents ||| 2, devCounts := t.dev.ou.devCounts } } } ∧
      counted s.dev t.dev (fun c => if c = .downLinkLosses then 1 else if c = .downAborted then s.dev.cp.rx.abortCount part else 0)) ∧
    (∃ t, exec (.downSymbolError part) s = .next t ∧
      t = { s with dev := { s.dev with
        cp := s.dev.cp.aborted part
        ib := s.dev.cp.rx.abortIntake s.dev.ib
        ou := { s.dev.ou with devCounts := t.dev.ou.devCounts } } } ∧
      counted s.dev t.dev (fun c => if c = .downSymbolErrors then 1 else if c = .downAborted then s.dev.cp.rx.abortCount part else 0)) ∧
    (∃ t, exec (.downParcelAborted part) s = .next t ∧
      t = { s with dev := { s.dev with
        cp := s.dev.cp.aborted part
        ib := s.dev.cp.rx.abortIntake s.dev.ib
        ou := { s.dev.ou with devCounts := t.dev.ou.devCounts } } } ∧
      counted s.dev t.dev (fun c => if c = .downAborted then s.dev.cp.rx.abortCount part else 0))

/-- A parcel that ends before its whole header, and a parcel of kind REPLY or of unknown kind, is a BAD_PARCEL: counted once, nothing
of it repeated or kept; a parcel still open at its start marker ends as aborted. Rests on logs 11 and 12. -/
def Obligations.BadParcelNotRepeated : Prop :=
  ∀ s : State, s.dev.working → s.dev.cp.downSync = .inSync →
    (∃ t, exec .shortHeaderParcel s = .next t ∧
      t = { s with dev := { s.dev with
        cp := s.dev.cp.aborted .between
        ib := s.dev.cp.rx.abortIntake s.dev.ib
        ou := { s.dev.ou with devCounts := t.dev.ou.devCounts } } } ∧
      counted s.dev t.dev
        (fun c => if c = .downBadParcels then 1 else if c = .downAborted then s.dev.cp.rx.abortCount .between else 0)) ∧
    (∀ kind : Byte, kind ≠ 1 → kind ≠ 2 → kind ≠ 4 → ∃ t, exec (.badKindParcel kind) s = .next t ∧
      t = { s with dev := { s.dev with
        cp := { s.dev.cp.aborted .between with rx := .refused }
        ib := s.dev.cp.rx.abortIntake s.dev.ib
        ou := { s.dev.ou with devCounts := t.dev.ou.devCounts } } } ∧
      counted s.dev t.dev
        (fun c => if c = .downBadParcels then 1 else if c = .downAborted then s.dev.cp.rx.abortCount .between else 0))

/-- A LINE header: the start marker and the header go on down the lane whatever it holds; an invalid header is counted; a copy is
admitted exactly when a running job has an enabled head of the plane whose window lies in the span and the buffer has space; want of
space sets and counts INTAKE_OVERFLOW. Rests on logs 11, 12 and 35. -/
def Obligations.LineHeaderAdmits : Prop :=
  ∀ (s : State) (h : LineHeader), s.dev.working → s.dev.cp.downSync = .inSync →
    ∃ t, exec (.lineParcelHeader h) s = .next t ∧
      (let valid : Bool := h.plane.toNat ≤ 7 && h.line.toNat ≤ 16777214 && (h.depth == 1 || h.depth == 2 || h.depth == 4) &&
        h.firstColumn.toNat + (h.countMinus1.toNat + 1) ≤ 65536
      let needed : Bool := s.dev.pc.job != .config && allPorts.any (fun p =>
        (s.dev.head p).enabled && (s.dev.head p).plane.val == h.plane.toNat && h.firstColumn.toNat ≤ (s.dev.head p).origin &&
          (s.dev.head p).origin + (s.dev.head p).nozzles ≤ h.firstColumn.toNat + (h.countMinus1.toNat + 1))
      let buffer := s.dev.cp.rx.abortIntake s.dev.ib
      let used := (buffer.complete.map (fun c => intakeSpace c.hdr)).sum + (buffer.filling.map intakeSpace).getD 0 +
        (s.dev.le.map (fun g => intakeSpace g.copy.hdr)).getD 0
      let fits : Bool := used + intakeSpace h ≤ 262144
      t = { s with dev := { s.dev with
        cp := { s.dev.cp.aborted .between with
          rx := .line h (!valid)
          downOut := (s.dev.cp.aborted .between).downOut ++ [.start (lineHeaderBytes h)] }
        ib := if valid && needed && fits then { buffer with filling := some h } else buffer
        ou := { s.dev.ou with
          devEvents := if valid && needed && !fits then s.dev.ou.devEvents ||| 16 else s.dev.ou.devEvents
          devCounts := t.dev.ou.devCounts } } } ∧
      counted s.dev t.dev (fun c =>
        if c = .downBadParcels then (if valid then 0 else 1)
        else if c = .intakeOverflows then (if valid && needed && !fits then 1 else 0)
        else if c = .downAborted then s.dev.cp.rx.abortCount .between else 0))

/-- The end marker of a LINE parcel: the bytes and the marker go on down the lane. A parcel that failed at its header is not judged
again. A good one makes its copy, if it has one, the youngest complete copy and counts PARTIAL_SPAN for each enabled head of its plane
whose window it covers in part; a wrong length counts DOWN_BAD_PARCELS, a wrong CRC DOWN_CRC_ERRORS, and the copy goes.
Rests on logs 11, 12 and 35. -/
def Obligations.LineEndJudges : Prop :=
  ∀ (s : State) (h : LineHeader) (judged : Bool) (bytes : List Byte), s.dev.working → s.dev.cp.downSync = .inSync →
    s.dev.cp.rx = .line h judged →
    ∃ t, exec (.lineParcelEnd bytes) s = .next t ∧
      (let n := ((h.countMinus1.toNat + 1) * h.depth.toNat + 7) / 8
      let longEnough : Bool := bytes.length == n + 4
      let crcRight : Bool := bytes.drop n == crcBytes (lineHeaderBytes h ++ bytes.take n)
      let good := !judged && longEnough && crcRight
      t = { s with dev := { s.dev with
        cp := { s.dev.cp with
          rx := .idle
          downOut := s.dev.cp.downOut ++ ((if bytes = [] then [] else [.bytes bytes]) ++ [.endMarker]) }
        ib :=
          if judged then s.dev.ib
          else if good then
            { complete := s.dev.ib.complete ++ (s.dev.ib.filling.map (fun k => { hdr := k, body := bytes.take n })).toList
              filling := none }
          else { s.dev.ib with filling := none }
        ou := { s.dev.ou with devCounts := t.dev.ou.devCounts, headCounts := t.dev.ou.headCounts } } } ∧
      counted s.dev t.dev (fun c =>
        if c = .downBadParcels then (if !judged && !longEnough then 1 else 0)
        else if c = .downCrcErrors then (if !judged && longEnough && !crcRight then 1 else 0) else 0) ∧
      headCounted s.dev t.dev (fun p c =>
        let w := s.dev.head p
        let last := h.firstColumn.toNat + (h.countMinus1.toNat + 1)
        if c = .partialSpan ∧ good = true ∧ s.dev.pc.job ≠ .config ∧ w.enabled = true ∧ w.plane.val = h.plane.toNat ∧
          h.firstColumn.toNat < w.origin + w.nozzles ∧ w.origin < last ∧
          ¬(h.firstColumn.toNat ≤ w.origin ∧ w.origin + w.nozzles ≤ last) then 1 else 0))

/-- An ORDER header: an invalid one is counted and neither repeated nor queued; a broadcast is repeated and queued, an order for this
device queued, any other repeated; an order for the queue that finds all four places taken draws BUSY, or is dropped where no reply
place is FREE. Rests on logs 11, 12 and 35. -/
def Obligations.OrderHeaderQueues : Prop :=
  ∀ (s : State) (h : OrderHeader), s.dev.working → s.dev.cp.downSync = .inSync →
    ∃ t, exec (.orderParcelHeader h) s = .next t ∧
      (let base := s.dev.cp.aborted .between
      let valid : Bool := h.dest.toNat ≤ 15 && h.words.toNat ≤ 65
      let mine : Bool := h.dest == 0 || h.dest == s.dev.cp.chainId
      let repeated : Bool := h.dest == 0 || h.dest != s.dev.cp.chainId
      let room : Bool := base.orderQ.length < 4
      let free : Bool := s.dev.cp.replies.length + Exec.reserved s.dev.ou.exec < 4
      let queued := valid && mine && room
      let busy := valid && mine && !room && free
      t = { s with dev := { s.dev with
        cp := { base with
          rx := if valid then .order h queued repeated else .refused
          orderQ := if queued then base.orderQ ++ [.arriving h] else base.orderQ
          downOut := if valid && repeated then base.downOut ++ [.start (orderHeaderBytes h)] else base.downOut
          replies := if busy then base.replies ++ [answer base.chainId h .busy []] else base.replies
          upSending := if busy then some (base.upSending.getD .replyQueue) else base.upSending }
        ib := s.dev.cp.rx.abortIntake s.dev.ib
        ou := { s.dev.ou with devCounts := t.dev.ou.devCounts } } } ∧
      counted s.dev t.dev (fun c =>
        if c = .downBadParcels then (if valid then 0 else 1)
        else if c = .busyReplies then (if busy then 1 else 0)
        else if c = .ordersDropped then (if valid && mine && !room && !free then 1 else 0)
        else if c = .downAborted then s.dev.cp.rx.abortCount .between else 0))

/-- The end marker of an ORDER parcel: a repeated one goes on with the marker. A good order's copy becomes complete with the words of
its body; at the tail an addressed order for another ID draws NO_SUCH_DEVICE, or is counted where no reply place is FREE. A wrong
length or CRC is counted, and the copy's place is released. Rests on logs 11, 12 and 35. -/
def Obligations.OrderEndJudges : Prop :=
  ∀ (s : State) (h : OrderHeader) (queued repeated : Bool) (bytes : List Byte), s.dev.working → s.dev.cp.downSync = .inSync →
    s.dev.cp.rx = .order h queued repeated →
    ∃ t, exec (.orderParcelEnd bytes) s = .next t ∧
      (let n := 4 * h.words.toNat
      let longEnough : Bool := bytes.length == n + 4
      let crcRight : Bool := bytes.drop n == crcBytes (orderHeaderBytes h ++ bytes.take n)
      let good := longEnough && crcRight
      let answered := good && s.dev.cp.returnSync == .lost && h.dest != 0 && h.dest != s.dev.cp.chainId
      let free : Bool := s.dev.cp.replies.length + Exec.reserved s.dev.ou.exec < 4
      t = { s with dev := { s.dev with
        cp := { s.dev.cp with
          rx := .idle
          downOut := if repeated then s.dev.cp.downOut ++ ((if bytes = [] then [] else [.bytes bytes]) ++ [.endMarker])
            else s.dev.cp.downOut
          orderQ :=
            if good then
              if queued then s.dev.cp.orderQ.map (fun q => match q with
                | .arriving k => .complete { hdr := k, body := takeWords h.words.toNat bytes }
                | .complete o => .complete o)
              else s.dev.cp.orderQ
            else s.dev.cp.orderQ.filter OrderPlace.isComplete
          replies := if answered && free then s.dev.cp.replies ++ [answer s.dev.cp.chainId h .noSuchDevice []] else s.dev.cp.replies
          upSending := if answered && free then some (s.dev.cp.upSending.getD .replyQueue) else s.dev.cp.upSending }
        ou := { s.dev.ou with devCounts := t.dev.ou.devCounts } } } ∧
      counted s.dev t.dev (fun c =>
        if c = .downBadParcels then (if longEnough then 0 else 1)
        else if c = .downCrcErrors then (if longEnough && !crcRight then 1 else 0)
        else if c = .repliesDropped then (if answered && !free then 1 else 0) else 0))

/-- A NUMBER parcel, given whole or in its two parts. Its header opens it: a parcel still open ends as aborted, and the NUMBER is held. Its
end marker judges it: a good one that is still held gives the chain ID in CONFIG, or sets NUMBER_IGNORED in RUN and STOPPING, goes on
rebuilt with min(v + 1, 255), and draws the count reply at the tail, after the ID was taken; one that a RESET order discarded is neither
taken nor repeated; a wrong length or CRC is counted, and nothing is taken or repeated. An end marker where no NUMBER is open does
nothing. Rests on logs 11, 12 and 35. -/
def Obligations.NumberTakesChainId : Prop :=
  ∀ (s : State) (v : Byte), s.dev.working → s.dev.cp.downSync = .inSync →
    (∀ bytes : List Byte, ∃ t, exec (.numberParcel v (.whole bytes)) s = .next t ∧
      numberEnded s t v bytes true (s.dev.cp.aborted .between) (s.dev.cp.rx.abortIntake s.dev.ib)
        (s.dev.cp.rx.abortCount .between)) ∧
    (∃ t, exec (.numberParcel v .opened) s = .next t ∧
      t = { s with dev := { s.dev with
        cp := { s.dev.cp.aborted .between with rx := .number v true }
        ib := s.dev.cp.rx.abortIntake s.dev.ib
        ou := { s.dev.ou with devCounts := t.dev.ou.devCounts } } } ∧
      counted s.dev t.dev (fun c => if c = .downAborted then s.dev.cp.rx.abortCount .between else 0)) ∧
    (∀ (bytes : List Byte) (w : Byte) (held : Bool), s.dev.cp.rx = .number w held →
      ∃ t, exec (.numberParcel v (.closed bytes)) s = .next t ∧
        numberEnded s t w bytes held { s.dev.cp with rx := .idle } s.dev.ib 0) ∧
    (∀ bytes : List Byte, (∀ w held, s.dev.cp.rx ≠ .number w held) →
      exec (.numberParcel v (.closed bytes)) s = .next s)

/-! ### The return lane and the up lane -/

/-- Loss of sync and an invalid symbol on an IN_SYNC return-in: a stored parcel being received is discarded and counted, a parcel being
ignored ends uncounted; the invalid symbol is counted besides; the loss sets the tail flag. Rests on log 14. -/
def Obligations.ReturnParcelDiscarded : Prop :=
  ∀ s : State, s.dev.working → s.dev.cp.returnSync = .inSync →
    (∃ t, exec .returnInLost s = .next t ∧ t.dev.tailFlag = true ∧
      t = { s with dev := { s.dev with
        cp := { s.dev.cp with returnSync := .lost, returnRx := .idle }
        ou := { s.dev.ou with devCounts := t.dev.ou.devCounts } } } ∧
      counted s.dev t.dev (fun c => if c = .returnErrors then (if s.dev.cp.returnRx = .storing then 1 else 0) else 0)) ∧
    (∃ t, exec .returnSymbolError s = .next t ∧
      t = { s with dev := { s.dev with
        cp := { s.dev.cp with returnRx := .idle }
        ou := { s.dev.ou with devCounts := t.dev.ou.devCounts } } } ∧
      counted s.dev t.dev (fun c => if c = .returnErrors then (if s.dev.cp.returnRx = .storing then 2 else 1) else 0))

/-- A start marker on return-in takes a place, or with all eight in use the parcel is ignored and RETURN_OVERFLOW set and counted. At
the closing marker a stored REPLY whose source, length and CRC are right is complete and offered; any other stored parcel is
discarded and counted; an ignored one ends. Rests on logs 14 and 35. -/
def Obligations.ReturnBufferStores : Prop :=
  ∀ s : State, s.dev.working → s.dev.cp.returnSync = .inSync →
    (∃ t, exec .returnParcelStart s = .next t ∧
      t = { s with dev := { s.dev with
        cp := { s.dev.cp with returnRx := if s.dev.cp.returnQ.length < 8 then .storing else .ignoring }
        ou := { s.dev.ou with
          devEvents := if s.dev.cp.returnQ.length < 8 then s.dev.ou.devEvents else s.dev.ou.devEvents ||| 8
          devCounts := t.dev.ou.devCounts } } } ∧
      counted s.dev t.dev (fun c =>
        if c = .returnErrors then (if s.dev.cp.returnRx = .storing then 1 else 0)
        else if c = .returnOverflows then (if s.dev.cp.returnQ.length < 8 then 0 else 1) else 0)) ∧
    (∀ (bytes : List Byte) (closing : Closing), s.dev.cp.returnRx ≠ .idle →
      ∃ t, exec (.returnParcelEnd bytes closing) s = .next t ∧
        (let words := (bytes.getD 5 0).toNat
        let good : Bool := s.dev.cp.returnRx == .storing && closing == .endMarker && bytes.length == 10 + 4 * words &&
          bytes.getD 0 0 == 3 && (bytes.getD 1 0).toNat ≤ 15 && words ≤ 64 &&
          bytes.drop (6 + 4 * words) == crcBytes (bytes.take (6 + 4 * words))
        t = { s with dev := { s.dev with
          cp := { s.dev.cp with
            returnRx := .idle
            returnQ := if good then s.dev.cp.returnQ ++ [bytes] else s.dev.cp.returnQ
            upSending := if good then some (s.dev.cp.upSending.getD .returnBuffer) else s.dev.cp.upSending }
          ou := { s.dev.ou with devCounts := t.dev.ou.devCounts } } } ∧
        counted s.dev t.dev (fun c =>
          if c = .returnErrors then (if s.dev.cp.returnRx = .storing ∧ good = false then 1 else 0) else 0)))

/-- The last symbol of a parcel has gone out on the up lane: its place is free, its source is recorded as served last, and the arbiter
chooses by turns between two sources that offer, else the one that offers. -/
def Obligations.UpLaneAlternates : Prop :=
  ∀ s : State, s.dev.working →
    (∀ (r : Reply) (rest : List Reply), s.dev.cp.upSending = some .replyQueue → s.dev.cp.replies = r :: rest → r.endsReset = false →
      exec .upLaneParcelSent s = .next { s with dev := { s.dev with cp := { s.dev.cp with
        replies := rest
        upLast := .replyQueue
        upSending := if s.dev.cp.returnQ ≠ [] then some .returnBuffer else if rest ≠ [] then some .replyQueue else none } } }) ∧
    (∀ (b : List Byte) (rest : List (List Byte)), s.dev.cp.upSending = some .returnBuffer → s.dev.cp.returnQ = b :: rest →
      exec .upLaneParcelSent s = .next { s with dev := { s.dev with cp := { s.dev.cp with
        returnQ := rest
        upLast := .returnBuffer
        upSending := if s.dev.cp.replies ≠ [] then some .replyQueue else if rest ≠ [] then some .returnBuffer else none } } })

/-- The RESET order: it is answered OK at once and stays in execution; when its reply has been sent, the reset takes effect: every
block cleared but for the chain ID, the lanes' sync states, down-lane repetition, the filtered levels and decoder pair, the installed
memory word and the memory outside an abandoned landing write. A NUMBER parcel being received is held no longer. Rests on logs 8, 11,
12, 14 and 38. -/
def Obligations.ResetOrderResets : Prop :=
  (∀ (s : State) (o : OrderParcel) (rest : List OrderPlace), s.dev.offers o rest → o.hdr.code = 11 → o.body = [] →
    exec .resetOrder s = .next { s with dev := { s.dev with
      cp := { s.dev.cp.answered rest o.hdr .ok [] with
        replies := s.dev.cp.replies ++ [{ answer s.dev.cp.chainId o.hdr .ok [] with endsReset := true }] }
      ou := { s.dev.ou with exec := some .reset } } }) ∧
  (∀ (s : State) (r : Reply) (rest : List Reply), s.dev.working → s.dev.cp.upSending = some .replyQueue →
    s.dev.cp.replies = r :: rest → r.endsReset = true →
    ∃ t, exec .upLaneParcelSent s = .next t ∧ t.pending = s.pending ∧ t.dev.resetPin = false ∧ t.dev.alert = false ∧
      t.dev.now = s.dev.now ∧ t.dev.storesCleared ∧ t.dev.runCleared ∧
      t.dev.cp.chainId = s.dev.cp.chainId ∧ t.dev.cp.downSync = s.dev.cp.downSync ∧ t.dev.cp.returnSync = s.dev.cp.returnSync ∧
      t.dev.cp.downOut = s.dev.cp.downOut ∧
      t.dev.cp.rx = (match s.dev.cp.rx with
        | .order h _ repeated => .order h false repeated
        | .number v _ => .number v false
        | other => other) ∧
      t.dev.cp.returnRx = (if s.dev.cp.returnRx = .idle then .idle else .ignoring) ∧
      t.dev.ou.memory = s.dev.ou.memory ∧ t.dev.pu.chA = s.dev.pu.chA ∧ t.dev.pu.chB = s.dev.pu.chB ∧
      t.dev.pu.pair = s.dev.pu.pair ∧ t.dev.pc.pdi = s.dev.pc.pdi ∧ (∀ p, t.dev.port p = clearedPort (s.dev.port p).sync) ∧
      (∀ a, (∀ w, s.dev.ls.service = some (.landWrite w) → a < w.addr ∨ w.addr + w.bytes.length ≤ a) →
        readByte t.dev.mem a = readByte s.dev.mem a))

/-! ### Orders and tables -/

/-- An order of unknown code, or whose body length does not fit its code, is answered BAD_ORDER with an empty body and has no effect.
Rests on log 2. -/
def Obligations.MisfitOrderRefused : Prop :=
  ∀ (s : State) (o : OrderParcel) (rest : List OrderPlace), s.dev.offers o rest →
    let code := o.hdr.code.toNat
    let n := o.body.length
    let refused := s.answering rest o.hdr .badOrder []
    (code = 0 ∨ 11 < code → exec .unknownOrderCode s = .next refused) ∧
    (code = 1 → n ≠ 2 → exec .read s = .next refused) ∧
    (code = 2 → n < 2 ∨ 65 < n → exec .write s = .next refused) ∧
    (code = 3 → n ≠ 2 → exec .readClearCounters s = .next refused) ∧
    (code = 4 → n ≠ 0 → exec .startJob s = .next refused) ∧
    (code = 5 → n ≠ 0 → exec .stopJob s = .next refused) ∧
    (code = 6 → n ≠ 0 → exec .abortJob s = .next refused) ∧
    (code = 7 → n ≠ 1 → exec .announce s = .next refused) ∧
    (code = 8 → n ≠ 0 → exec .go s = .next refused) ∧
    (code = 9 → n ≠ 1 → exec .loadWaves s = .next refused) ∧
    (code = 10 → n ≠ 1 → exec .unpark s = .next refused) ∧
    (code = 11 → n ≠ 0 → exec .resetOrder s = .next refused)

/-- A READ, WRITE or READ_CLEAR of a table that does not exist or that the order does not act on, of a range that does not lie within
the table, or of a word that may not be written is answered with an empty body and has no effect; the first check that fails decides.
Rests on logs 2 and 15. -/
def Obligations.TableAccessRefused : Prop :=
  ∀ (s : State) (o : OrderParcel) (rest : List OrderPlace), s.dev.offers o rest →
    let answers := fun st => Host.Outcome.next (φ := Fault) (ρ := Refusal) (s.answering rest o.hdr st [])
    let badCount := o.count = 0 ∨ 64 < o.count
    (o.hdr.code = 1 → o.body.length = 2 →
      (10 < o.table → exec .read s = answers .badTable) ∧
      (o.table ≤ 9 → badCount ∨ ¬ withinTable o.table o.start o.count → exec .read s = answers .badIndex) ∧
      (o.table = 10 → badCount ∨ ¬ s.dev.withinWindow o.start o.count → exec .readWindow s = answers .badIndex)) ∧
    (o.hdr.code = 2 → 2 ≤ o.body.length → o.body.length ≤ 65 →
      (10 < o.table → exec .write s = answers .badTable) ∧
      (o.table ≤ 9 → ¬ withinTable o.table o.start o.data.length → exec .write s = answers .badIndex) ∧
      (o.table ≤ 9 → withinTable o.table o.start o.data.length →
        (∃ k < o.data.length, lockedWord s.dev.pc.job o.table (o.start + k)) → exec .write s = answers .locked) ∧
      (o.table = 10 → exec .write s = answers .locked)) ∧
    (o.hdr.code = 3 → o.body.length = 2 →
      (o.table ≠ 7 → o.table ≠ 8 → exec .readClearCounters s = answers .badTable) ∧
      (o.table = 7 → badCount ∨ ¬ withinTable 7 o.start o.count → exec .readClearCounters s = answers .badIndex) ∧
      (o.table = 8 → badCount ∨ ¬ withinTable 8 o.start o.count → exec .readClearEvents s = answers .badIndex))

/-- A READ within a table answers OK with the words of its range in index order and changes nothing else. Table 0 reads as the part
code, the revision, the chain ID, the tail flag, the installed segments and the job state. Table 9 reads as the number of records, the
last-page report, the line count, the bound limit and the line count of the next PITCH trigger, each 0 where it is none, with the bits
that say which are present, then eight words for each record place, 0 beyond the records held. Rests on log 33. -/
def Obligations.ReadReturnsRange : Prop :=
  (∀ (s : State) (o : OrderParcel) (rest : List OrderPlace), s.dev.offers o rest → o.hdr.code = 1 → o.body.length = 2 →
    o.table ≤ 9 → 1 ≤ o.count → o.count ≤ 64 → withinTable o.table o.start o.count →
    exec .read s = .next (s.answering rest o.hdr .ok ((List.range o.count).map (fun k => s.dev.readWord o.table (o.start + k))))) ∧
  (∀ d : Device, (List.range 6).map (d.readWord 0) =
    [0x740, 1, BitVec.ofNat 32 d.cp.chainId.toNat, if d.cp.returnSync = .lost then 1 else 0,
      (match d.ou.memory with
        | .m512 => 512
        | .m1024 => 1024
        | .m2048 => 2048),
      (match d.pc.job with
        | .config => 0
        | .run => 1
        | .stopping => 2)]) ∧
  ∀ d : Device,
    let next := if d.tab.job.source = .pitch ∧ d.pc.job = .run then
      d.pc.anchor.map (fun a => a + BitVec.ofNat 32 d.tab.job.pitch - BitVec.ofNat 32 d.tab.job.offset) else none
    ((List.range 8).map (d.readWord 9) =
      [BitVec.ofNat 32 d.pc.queue.length,
        (match d.pc.report with
          | none => 0
          | some q => BitVec.ofNat 32 (256 + q.tag.toNat)),
        (d.pc.report.map (·.starved)).getD 0, (d.pc.report.map (·.skipped)).getD 0, d.pu.count, d.pc.boundLimit.getD 0, next.getD 0,
        BitVec.ofNat 32 ((if d.pc.boundLimit = none then 0 else 1) + (if next = none then 0 else 2))]) ∧
    ∀ i k : Nat, k < 8 → d.readWord 9 (8 + 8 * i + k) =
      match d.pc.queue[i]? with
      | none => 0
      | some q =>
        let (state, base) : Nat × Pos := match q.state with
          | .announced => (0, 0)
          | .bound b => (1, b)
          | .active b => (2, b)
        [BitVec.ofNat 32 (16777216 * q.tag.toNat + state), BitVec.ofNat 32 q.length, base, q.starved, q.skipped].getD k 0

/-- A stored word reads back: a field of a number as the number written brought into its range, bits outside fields as 0, and every
other word of the writable tables as before. The line pitch ratio written 0 reads 0, an overlap reads as written, nozzles per row are
rounded down to a multiple of 16, and a level of magnitude 0 has a positive sign. The word counts as clamped exactly where a field of it
reads back as another number than the one written, a negative zero not counted. A mask word reads back with its assigned bits alone,
never counts as clamped, and changes nothing but itself. Rests on logs 16 and 44. -/
def Obligations.StoredWordReadsBack : Prop :=
  (∀ (d : Device) (table i : Nat) (w : Word), d.mapsRise → 1 ≤ table → table ≤ 6 → withinTable table i 1 →
    let e := (d.storeWord table i w).1
    let v := w.toNat
    let field := fun lo n => v / 2 ^ lo % 2 ^ n
    let back := (e.readWord table i).toNat
    let written := if table ≠ 2 ∨ i % 16 = 7 ∨ i % 16 = 10 then v else
      field 0 ([1, 8, 16, 8, 16, 8, 8, 32, 8, 8, 32, 16, 8, 16, 16, 9].getD (i % 16) 0)
    ((d.storeWord table i w).2 = true ↔ if table = 6 then 63 < field 8 7 else back ≠ written) ∧
    (∀ table' j, 1 ≤ table' → table' ≤ 6 → withinTable table' j 1 → (table', j) ≠ (table, i) →
      e.readWord table' j = d.readWord table' j) ∧
    (table = 1 → back = if i = 0 then (if v = 0 then 0 else min v 65536) else
      max ([0, 0, 0, 0, 0, 0, 0, 1, 0, 1].getD i 0) (min v ([0, 1, 15, 1, 2, 1, 255, 65535, 65535, 16777215].getD i 0))) ∧
    (table = 2 → back =
      if i % 16 = 0 then field 0 1
      else if i % 16 = 1 then min (field 0 8) 7
      else if i % 16 = 2 then field 0 16
      else if i % 16 = 3 then max 1 (min (field 0 8) 4)
      else if i % 16 = 4 then max 16 (min (field 0 16 / 16 * 16) 1024)
      else if i % 16 = 5 ∨ i % 16 = 8 then min (field 0 8) 2
      else if i % 16 = 6 ∨ i % 16 = 9 then min (field 0 8) 15
      else if i % 16 = 7 ∨ i % 16 = 10 then v
      else if i % 16 = 11 then min (field 0 16) 2047
      else if i % 16 = 12 then max 1 (min (field 0 8) 64)
      else if i % 16 = 13 then min (field 0 8) 4 + 256 * max 2 (min (field 8 8) 64)
      else if i % 16 = 14 then field 0 16
      else field 0 9) ∧
    (table = 3 → back = min v (if i % 2 = 0 then 65535 else 255)) ∧
    (table = 4 → back = min v (if i % 272 < 16 then 3 else 255)) ∧
    (table = 5 → back = min v 3) ∧
    (table = 6 → back = field 0 8 + 256 * min (field 8 7) 63 + (if field 8 7 = 0 then 0 else 32768 * field 15 1))) ∧
  ∀ (d : Device) (i : Nat) (w : Word), 17 ≤ i → i ≤ 33 →
    let e := (d.storeWord 8 i w).1
    (d.storeWord 8 i w).2 = false ∧
    e = { d with ou := { d.ou with devMask := e.ou.devMask, headMasks := e.ou.headMasks } } ∧
    e.readWord 8 i = w &&& (if i = 17 then 0x1FFF else 0x7F) ∧
    ∀ j, 17 ≤ j → j ≤ 33 → j ≠ i → e.readWord 8 j = d.readWord 8 j

/-- A READ of the line store window is raised at the arbiter and stays in execution; with the memory port free it is granted at once,
its slot resolved then, and answered BAD_INDEX where the ring holds no slot there. When the read in service completes, its reply holds
the two record words as they stood at the grant and the memory words as they stand, four bytes a word. Rests on log 10. -/
def Obligations.WindowReadServed : Prop :=
  (∀ (s : State) (o : OrderParcel) (rest : List OrderPlace), s.dev.offers o rest → o.hdr.code = 1 → o.body.length = 2 →
    o.table = 10 → 1 ≤ o.count → o.count ≤ 64 → s.dev.withinWindow o.start o.count →
    let w : WindowRead :=
      { port := portN (o.start / 1048576), position := o.start / 256 % 4096, word := o.start % 256, count := o.count }
    (s.dev.ls.service ≠ none →
      exec .readWindow s = .next { s with dev := { s.dev with
        cp := s.dev.cp.taken rest
        ou := { s.dev.ou with exec := some (.windowRead o.hdr) }
        ls := { s.dev.ls with window := some w } } }) ∧
    (∀ g k, s.dev.ls.service = none → s.dev.ring w.port = some g → g.slots[w.position]? = some k →
      exec .readWindow s = .next { s with dev := { s.dev with
        cp := s.dev.cp.taken rest
        ou := { s.dev.ou with exec := some (.windowRead o.hdr) }
        ls := { s.dev.ls with service := some (.window w (k.tag ++ BitVec.ofNat 24 k.line)
          (BitVec.ofNat 16 g.slots.length ++ (if k.state = .landed then (1 : Byte) else 0) ++ BitVec.ofNat 8
            ((if vget k.done 0 then 1 else 0) + (if vget k.done 1 then 2 else 0) + (if vget k.done 2 then 4 else 0) +
              (if vget k.done 3 then 8 else 0)))
          (g.base * 1048576 + (g.oldest + w.position) % g.capacity * g.slotBytes)) } } }) ∧
    (∀ g, s.dev.ls.service = none → s.dev.ring w.port = some g → g.slots.length ≤ w.position →
      exec .readWindow s = .next (s.answering rest o.hdr .badIndex []))) ∧
  (∀ (s : State) (w : WindowRead) (record0 record1 : Word) (addr : Nat) (h : OrderHeader), s.dev.working →
    s.dev.ls.service = some (.window w record0 record1 addr) → s.dev.ou.exec = some (.windowRead h) → s.dev.ls.window = none →
    addr + 4 * (max (w.word + w.count) 2 - 2) ≤ segmentsOf s.dev.ou.memory * 1048576 →
    exec .windowReadComplete s = .next { s with dev := { s.dev with
      cp := { s.dev.cp with
        replies := s.dev.cp.replies ++ [answer s.dev.cp.chainId h .ok ((List.range w.count).map (fun k =>
          if w.word + k = 0 then record0
          else if w.word + k = 1 then record1
          else
            let a := addr + 4 * (w.word + k - 2)
            readByte s.dev.mem a ++ readByte s.dev.mem (a + 1) ++ readByte s.dev.mem (a + 2) ++ readByte s.dev.mem (a + 3)))]
        upSending := some (s.dev.cp.upSending.getD .replyQueue) }
      ou := { s.dev.ou with exec := none }
      ls := s.dev.ls.freed } })

/-- A permitted WRITE, under every row of the opcode table that it answers to, is answered OK and stores its words in index order;
CLAMPED_WRITE is set and counted once where a field was clamped. The tables not written, the memory, the Intake Buffer, the landing,
the job, the pages and the web are unchanged; the filter setting in force until the next tick is the web's only change.
Rests on logs 2, 16 and 30. -/
def Obligations.WriteStoresWords : Prop :=
  ∀ (s : State) (o : OrderParcel) (rest : List OrderPlace) (c : Instr), s.dev.offers o rest → s.dev.permits o → o.IsRow c →
    ∃ t, exec c s = .next t ∧ t.pending = s.pending ∧
      (let stored := s.dev.storeWords o.table o.start o.data
      t.dev.tab = stored.1.tab ∧ t.dev.ou.devMask = stored.1.ou.devMask ∧ t.dev.ou.headMasks = stored.1.ou.headMasks ∧
      t.dev.ou.devEvents = (if stored.2 then s.dev.ou.devEvents ||| 32 else s.dev.ou.devEvents) ∧
      counted s.dev t.dev (fun k => if k = .clampedWrites ∧ stored.2 = true then 1 else 0) ∧
      t.dev.ou.headEvents = s.dev.ou.headEvents ∧ t.dev.ou.exec = none ∧ t.dev.ou.memory = s.dev.ou.memory ∧
      t.dev.cp = s.dev.cp.answered rest o.hdr .ok [] ∧ t.dev.mem = s.dev.mem ∧ t.dev.ib = s.dev.ib ∧ t.dev.le = s.dev.le ∧
      t.dev.pc = s.dev.pc ∧ t.dev.pu = { s.dev.pu with filterOld := t.dev.pu.filterOld } ∧ t.dev.now = s.dev.now ∧
      t.dev.freeCount = s.dev.freeCount ∧ t.dev.resetPin = false ∧ t.dev.ls.rings = s.dev.ls.rings ∧
      t.dev.ls.writeQ = s.dev.ls.writeQ ∧ t.dev.ls.window = s.dev.ls.window)

/-- What a WRITE of an enabled word, of a row count or of waveforms does to a port: enabling a DISABLED port makes it UNLOADED or DOWN by
its lane, disabling puts it in DISABLED with its lane silent, and a WRITE that touches a READY port's waveforms makes it UNLOADED. The
rows of a port that left READY, and the rows that a WRITE of the row count leaves not enabled, are emptied with their last fire times
kept; a port whose enabled word, operating words and waveforms the WRITE does not touch, and its other rows, are unchanged.
Rests on logs 17, 24, 40, 41 and 47. -/
def Obligations.WriteMovesPorts : Prop :=
  ∀ (s : State) (o : OrderParcel) (rest : List OrderPlace) (c : Instr), s.dev.offers o rest → s.dev.permits o → o.IsRow c →
    ∃ t, exec c s = .next t ∧ ∀ p : PortIx,
      (let hp := s.dev.port p
      let on := (vget t.dev.tab.heads p).enabled
      let enabledWritten : Prop := o.writes 2 (16 * p.val) = true
      let rowCountWritten : Prop := o.writes 2 (16 * p.val + 3) = true
      let wavesWritten : Prop := ∃ k < 32, o.writes 6 (32 * p.val + k) = true
      (enabledWritten → on = true → hp.state = .disabled →
        (t.dev.port p).state = if hp.sync = .inSync then .unloaded else .down) ∧
      (enabledWritten → on = true → hp.state ≠ .disabled → (t.dev.port p).state = hp.state) ∧
      (enabledWritten → on = false → hp.state ≠ .disabled →
        (∀ k, 13 ≤ k → k ≤ 15 → o.writes 2 (16 * p.val + k) = false) → t.dev.port p = hp.silenced .disabled) ∧
      (enabledWritten → on = false → (t.dev.port p).state = .disabled) ∧
      (enabledWritten → on = false → hp.state = .ready → ∀ r, t.dev.pipe p r = (s.dev.pipe p r).emptied) ∧
      (wavesWritten → hp.state = .ready → t.dev.port p = hp.left (s.dev.head p).rowCount (s.dev.head p).enabled .unloaded ∧
        ∀ r, t.dev.pipe p r = (s.dev.pipe p r).emptied) ∧
      (¬ enabledWritten → ¬ wavesWritten → (t.dev.port p).state = hp.state) ∧
      (rowCountWritten → ∀ r, t.dev.rowEnabled p r = false → t.dev.pipe p r = (s.dev.pipe p r).emptied) ∧
      (¬ enabledWritten → (∀ k, 13 ≤ k → k ≤ 15 → o.writes 2 (16 * p.val + k) = false) → ¬ (wavesWritten ∧ hp.state = .ready) →
        t.dev.port p = hp ∧ ∀ r, rowCountWritten ∧ t.dev.rowEnabled p r = false ∨ t.dev.pipe p r = s.dev.pipe p r))

/-- What a WRITE of a head's operating words brings about, in a job, or in CONFIG where it touches none of that head's other words. A
change between the fetch modes and the pattern modes drops the WAITING or STAGED stage of every printing row of a job, which is filled
afresh and handed over where the latch is CLEAR; a FETCHING or EMPTY stage, latch and hold stay, and a mode of the same kind changes no
stage. Entering PRBS reseeds the four generators with 0x7FFF, and a row's generator takes two steps a nozzle for each line handed over.
A settle time releases every hold whose release time has come, with FIRED counted, and leaves other holds; an idle tickle interval
restarts the timer of a READY port, or stops it at 0. Rests on logs 17 and 26. -/
def Obligations.OperatingWordsAct : Prop :=
  ∀ (s : State) (o : OrderParcel) (rest : List OrderPlace) (c : Instr), s.dev.offers o rest → s.dev.permits o → o.IsRow c →
    ∃ t, exec c s = .next t ∧ ∀ p : PortIx,
      s.dev.pc.job ≠ .config ∨ (o.table = 2 ∧ ∀ k < 13, o.writes 2 (16 * p.val + k) = false) →
      (let new := vget t.dev.tab.heads p
      let old := s.dev.head p
      let fetching : TestMode → Prop := fun m => m = .normal ∨ m = .mute
      let modeWritten : Prop := o.writes 2 (16 * p.val + 13) = true
      let settleWritten : Prop := o.writes 2 (16 * p.val + 15) = true
      let mfi := 5 * (longestWaveform (vget t.dev.tab.waves p) + new.settle)
      let turned : RowIx → Prop := fun r => modeWritten ∧ ¬ (fetching old.testMode ↔ fetching new.testMode) ∧ s.dev.pc.job ≠ .config ∧
        s.dev.printing p r = true ∧ ∃ x, (∃ pl, (s.dev.pipe p r).stage = .waiting x pl) ∨ ∃ cs, (s.dev.pipe p r).stage = .staged x cs
      let dropped : RowIx → Pipeline := fun r => { s.dev.pipe p r with stage := .empty }
      let moded : RowIx → Pipeline → Prop := fun r q =>
        (turned r → q = (dropped r).prepared new s.dev.pc (s.dev.ring p) (s.dev.standing p r)) ∧ (¬ turned r → q = s.dev.pipe p r)
      let releases : Pipeline → Prop := fun q => settleWritten ∧ q.hold ≠ none ∧ q.lastFire + mfi ≤ s.dev.now
      (∀ r q, moded r q →
        (¬ releases q → t.dev.pipe p r = q) ∧
        (releases q → t.dev.pipe p r =
          q.released new s.dev.pc (s.dev.ring p) (s.dev.standing p r) s.dev.now (s.dev.printing p r)) ∧
        (let seeded : Prop := modeWritten ∧ new.testMode = .prbs ∧ old.testMode ≠ .prbs
        let start := vget (s.dev.port p).prbs r
        let first : Prop := turned r ∧
          ((dropped r).filled new s.dev.pc (s.dev.ring p) (s.dev.standing p r)).toHand ≠ none
        let second : Prop := releases q ∧ s.dev.printing p r = true ∧ ({ q with latch := .clear } : Pipeline).toHand ≠ none
        ∃ frames : Nat,
          (first ∧ second → frames = 2) ∧ (¬ first ∧ ¬ second → frames = 0) ∧ (¬ (first ∧ second) → first ∨ second → frames = 1) ∧
          (¬ seeded → new.testMode ≠ .prbs → vget (t.dev.port p).prbs r = start) ∧
          (¬ seeded → new.testMode = .prbs → vget (t.dev.port p).prbs r = prbsAfter start (frames * (2 * new.nozzlesPerRow))) ∧
          (seeded → vget (t.dev.port p).prbs r = prbsAfter 0x7FFF (frames * (2 * new.nozzlesPerRow))))) ∧
      (settleWritten → (t.dev.headCounter p .fired).toNat = min ((s.dev.headCounter p .fired).toNat + (allRows.filter (fun r =>
        (s.dev.pipe p r).hold.isSome && (s.dev.pipe p r).lastFire + mfi ≤ s.dev.now)).length) 4294967295) ∧
      (o.writes 2 (16 * p.val + 14) = true → (s.dev.port p).state = .ready →
        (t.dev.port p).tickleAt = if new.tickleMs = 0 then none else some (s.dev.now + new.tickleMs * 100000)))

/-- ALERT is asserted exactly while the device event word as read holds a bit that the device mask leaves clear, and HEAD_ATTENTION is
its bit 0 exactly while a head event stands unmasked. A READ_CLEAR answers with the words of its range and takes away exactly what it
returned: the counters of the range become 0, the event words of the range lose every bit; masks, and words outside the range, stay.
Rests on log 2. -/
def Obligations.ReadClearAndAlert : Prop :=
  (∀ d : Device, (d.resetPin = false → (d.alert = true ↔
      ∃ i : Nat, (d.readWord 8 0).getLsbD i = true ∧ d.ou.devMask.getLsbD i = false)) ∧
    (d.ou.devEvents.getLsbD 0 = false → ((d.readWord 8 0).getLsbD 0 = true ↔ ∃ (p : PortIx) (i : Nat),
      (vget d.ou.headEvents p).getLsbD i = true ∧ (vget d.ou.headMasks p).getLsbD i = false))) ∧
  ∀ (s : State) (o : OrderParcel) (rest : List OrderPlace), s.dev.offers o rest → o.hdr.code = 3 → o.body.length = 2 →
    1 ≤ o.count → o.count ≤ 64 → withinTable o.table o.start o.count →
    let reply := fun t : State => (s.answering rest o.hdr .ok
      ((List.range o.count).map (fun k => s.dev.readWord o.table (o.start + k)))).dev.cp = t.dev.cp
    let inRange := fun i => o.start ≤ i ∧ i < o.start + o.count
    (o.table = 7 → ∃ t, exec .readClearCounters s = .next t ∧ reply t ∧
      t = { s with dev := { s.dev with cp := t.dev.cp, ou := { s.dev.ou with
        devCounts := t.dev.ou.devCounts, headCounts := t.dev.ou.headCounts } } } ∧
      (∀ i < 576, inRange i → t.dev.readWord 7 i = 0) ∧ (∀ i < 576, ¬ inRange i → t.dev.readWord 7 i = s.dev.readWord 7 i)) ∧
    (o.table = 8 → ∃ t, exec .readClearEvents s = .next t ∧ reply t ∧
      t = { s with dev := { s.dev with cp := t.dev.cp, ou := { s.dev.ou with
        devEvents := if o.start = 0 then 0 else s.dev.ou.devEvents, headEvents := t.dev.ou.headEvents } } } ∧
      (∀ p : PortIx, vget t.dev.ou.headEvents p = if inRange (p.val + 1) then 0 else vget s.dev.ou.headEvents p))

/-! ### Jobs and pages -/

/-- An accepted START_JOB: the job runs with an empty queue and no bound limit, anchor, report or qualification; the Intake Buffer is
empty and no landing is in flight; every enabled head has a fresh ring and no other head has one; waiting fetches and writes are
withdrawn; the web starts at 0 with the enabled rows followed; rows in a fetch mode are empty with their fire times kept, rows in a
pattern mode hand their first line over and stage the second. Tables, counters, events and memory stay.
Rests on logs 21, 22 and 39. -/
def Obligations.StartJobStartsRun : Prop :=
  ∀ (s : State) (o : OrderParcel) (rest : List OrderPlace), s.dev.offers o rest → o.hdr.code = 4 → o.body = [] →
    s.dev.pc.job = .config → s.dev.startFault = none → s.dev.webInRange →
    ∃ t, exec .startJob s = .next t ∧ t.pending = s.pending ∧ t.dev.cp = s.dev.cp.answered rest o.hdr .ok [] ∧
      t.dev.pc = { s.dev.pc with
        job := .run, queue := [], departed := t.dev.pc.departed, boundLimit := none, anchor := none, bindingMade := false,
        qualifier := none, report := none } ∧
      t.dev.ib = { complete := [], filling := none } ∧ t.dev.le = none ∧ t.dev.ou = s.dev.ou ∧ t.dev.tab = s.dev.tab ∧
      t.dev.mem = s.dev.mem ∧ t.dev.now = s.dev.now ∧ t.dev.ls.fetchQ = [] ∧ t.dev.ls.writeQ = [] ∧
      (s.dev.ls.service = none → t.dev.ls.service = none) ∧
      (∀ p, t.dev.ring p = if (s.dev.head p).enabled then
          let n := (s.dev.head p).rowCount * (s.dev.head p).nozzlesPerRow
          let slot := 64 * ((n + 255) / 256)
          some { base := (s.dev.head p).ringBase, segments := (s.dev.head p).ringSegments, slotBytes := slot,
                 blockBytes := (s.dev.head p).nozzlesPerRow / 4,
                 capacity := min 16383 ((s.dev.head p).ringSegments * 1048576 / slot), rowCount := (s.dev.head p).rowCount,
                 oldest := 0, slots := [] }
        else none) ∧
      t.dev.pu = { s.dev.pu with
        debt := 0, phase := 0, count := 0, reference := none, intervalValid := false, rows := t.dev.pu.rows } ∧
      (∀ p r,
        let q := rget s.dev.tab.rows p r
        let followed : Crossing := { threshold := if q.fine = 0 then 65536 else 256 * q.fine, delay := q.delay }
        t.dev.rowPos p r = { position := none, timer := none, taken := false
                             crossing := if s.dev.rowEnabled p r then some followed else none }) ∧
      (∀ p r, (t.dev.port p).state = (s.dev.port p).state ∧ (t.dev.pipe p r).lastFire = (s.dev.pipe p r).lastFire ∧
        (t.dev.pipe p r).hold = none ∧ (t.dev.pipe p r).missing = false ∧
        (let patterned : Bool := s.dev.rowEnabled p r && !(s.dev.head p).testMode.fetches
        let q := rget s.dev.tab.rows p r
        let first : Pos := (if q.fine = 0 then 1 else 0) - BitVec.ofNat 32 q.delay
        (patterned = false → (t.dev.pipe p r).stage = .empty ∧ (t.dev.pipe p r).latch = .clear) ∧
        (patterned = true → (t.dev.pipe p r).latch = .sending first ∧ (t.dev.pipe p r).stage = .staged (first + 1) none)))

/-- START_JOB outside CONFIG is answered NOT_CONFIG; a configuration that fails a check is answered BAD_SETTING with the reason and the
port of the first check that fails; neither has an effect. The checks, in order: R, the presence of an enabled head, then head by head
geometry, neighbours and overlaps, then head by head the ring's range, the other rings and its size, then head by head the port's
readiness. -/
def Obligations.StartJobChecks : Prop :=
  (∀ (s : State) (o : OrderParcel) (rest : List OrderPlace), s.dev.offers o rest → o.hdr.code = 4 → o.body = [] →
    (s.dev.pc.job ≠ .config → exec .startJob s = .next (s.answering rest o.hdr .notConfig [])) ∧
    (∀ why port, s.dev.pc.job = .config → s.dev.startFault = some (why, port) → exec .startJob s =
      .next (s.answering rest o.hdr .badSetting [BitVec.ofNat 32 why.code, BitVec.ofNat 32 port]))) ∧
  ([Reason.badGeometry, .badNeighbour, .badOverlap, .ringRange, .ringOverlap, .ringTooSmall, .portNotReady, .noHeads, .badR].map
    Reason.code = [1, 2, 3, 4, 5, 6, 7, 8, 9]) ∧
  (∀ d : Device,
    let on := allPorts.filter (fun p => (d.head p).enabled)
    let nozzles := fun p => (d.head p).rowCount * (d.head p).nozzlesPerRow
    let capacity := fun p => min 16383 ((d.head p).ringSegments * 1048576 / (64 * ((nozzles p + 255) / 256)))
    let fits : PortIx → Prop := fun p => nozzles p ≤ 2048 ∧ ((d.head p).origin : Int) + nozzles p - 1 ≤ 65535
    let facing : (HeadDescr → Neighbour) → (HeadDescr → Neighbour) → PortIx → Prop := fun side other p =>
      let q := (side (d.head p)).port
      (side (d.head p)).kind = .localPort → q ≠ p ∧ (d.head q).enabled = true ∧ (d.head q).plane = (d.head p).plane ∧
        (other (d.head q)).kind = .localPort ∧ (other (d.head q)).port = p
    let overlaps : PortIx → Prop := fun p =>
      0 ≤ leftOverlap d.tab.heads p ∧ leftOverlap d.tab.heads p ≤ 64 ∧ 0 ≤ rightOverlap d.tab.heads p ∧
        rightOverlap d.tab.heads p ≤ 64 ∧ leftOverlap d.tab.heads p + rightOverlap d.tab.heads p ≤ nozzles p
    let inMemory : PortIx → Prop := fun p => (d.head p).ringBase + (d.head p).ringSegments ≤ segmentsOf d.ou.memory
    let apart : PortIx → Prop := fun p => ∀ q, q ≠ p → (d.head q).enabled = true →
      (d.head p).ringBase + (d.head p).ringSegments ≤ (d.head q).ringBase ∨
        (d.head q).ringBase + (d.head q).ringSegments ≤ (d.head p).ringBase
    let large : PortIx → Prop := fun p => 2 ≤ capacity p ∧ ∀ r r' : RowIx, r.val < (d.head p).rowCount → r'.val < (d.head p).rowCount →
      (rget d.tab.rows p r).delay + 2 ≤ (rget d.tab.rows p r').delay + capacity p
    let checks : List (Prop × Reason × Nat) :=
      [(d.tab.job.pitchRatio ≠ 0, .badR, 16), (∃ p, (d.head p).enabled = true, .noHeads, 16)] ++
      on.flatMap (fun p => [(fits p, .badGeometry, p.val),
        (facing (·.left) (·.right) p ∧ facing (·.right) (·.left) p, .badNeighbour, p.val),
        (overlaps p, .badOverlap, p.val)]) ++
      on.flatMap (fun p => [(inMemory p, .ringRange, p.val), (apart p, .ringOverlap, p.val), (large p, .ringTooSmall, p.val)]) ++
      on.map (fun p => ((d.port p).state = .ready, .portNotReady, p.val))
    (d.startFault = none ↔ ∀ c ∈ checks, c.1) ∧
    (∀ w, d.startFault = some w ↔ ∃ before after holds, checks = before ++ (holds, w) :: after ∧ (∀ c ∈ before, c.1) ∧ ¬ holds))

/-- STOP_JOB: NOT_RUNNING in CONFIG, OK without effect in STOPPING. In RUN the ANNOUNCED records go with their slots and a landing of
their lines, and the pitch anchor becomes none; with records left the job is STOPPING and rows, ports and web are as before, with none
left it is CONFIG, JOB_STOPPED is set and the rows end as R156 states, held lines kept. Rests on logs 20, 21 and 22. -/
def Obligations.StopJobEndsJob : Prop :=
  ∀ (s : State) (o : OrderParcel) (rest : List OrderPlace), s.dev.offers o rest → o.hdr.code = 5 → o.body = [] →
    (s.dev.pc.job = .config → exec .stopJob s = .next (s.answering rest o.hdr .notRunning [])) ∧
    (s.dev.pc.job = .stopping → exec .stopJob s = .next (s.answering rest o.hdr .ok [])) ∧
    (s.dev.pc.job = .run → ∃ t, exec .stopJob s = .next t ∧ t.pending = s.pending ∧
      (let gone := (s.dev.pc.queue.filter (fun q => q.state == .announced)).map (·.tag)
      let kept := s.dev.pc.queue.filter (fun q => q.state != .announced)
      let landing : Bool := s.dev.le.any (fun g => gone.contains g.copy.hdr.tag)
      t.dev.cp = s.dev.cp.answered rest o.hdr .ok [] ∧ t.dev.mem = s.dev.mem ∧ t.dev.tab = s.dev.tab ∧ t.dev.ib = s.dev.ib ∧
      t.dev.now = s.dev.now ∧ t.dev.freeCount = s.dev.freeCount ∧ t.dev.resetPin = false ∧
      (∀ p, t.dev.ring p = (s.dev.ring p).map (fun g => { g with slots := g.slots.filter (fun k => !gone.contains k.tag) })) ∧
      t.dev.le = (if landing then none else s.dev.le) ∧ t.dev.ls.writeQ = (if landing then [] else s.dev.ls.writeQ) ∧
      t.dev.ls.fetchQ = (if kept = [] then s.dev.ls.fetchQ.map (fun f => { f with live := false }) else s.dev.ls.fetchQ) ∧
      t.dev.pc = { s.dev.pc with
        job := if kept = [] then .config else .stopping
        queue := kept
        departed := t.dev.pc.departed
        anchor := none
        qualifier := if kept = [] then none else s.dev.pc.qualifier } ∧
      t.dev.ou = (if kept = [] then { s.dev.ou with devEvents := s.dev.ou.devEvents ||| 64 } else s.dev.ou) ∧
      t.dev.pu = { s.dev.pu with rows := t.dev.pu.rows } ∧
      (∀ p r, t.dev.rowPos p r = (if kept = [] then (s.dev.rowPos p r).jobEnded else s.dev.rowPos p r) ∧
        t.dev.pipe p r = (if kept = [] then (s.dev.pipe p r).jobEnded true else s.dev.pipe p r)) ∧
      ∀ p, t.dev.port p = (if kept = [] then (s.dev.port p).jobEnded true (s.dev.pipe p) else s.dev.port p)))

/-- ABORT_JOB: OK without effect in CONFIG; in RUN and STOPPING it empties queue, Intake Buffer, landing, rings and waiting requests,
ends the bound limit, anchor and qualification, sets JOB_STOPPED, empties every row and has LOADED lines discarded. The last-page
report, tables, counters, memory, phase and line count stay. Rests on logs 21 and 22. -/
def Obligations.AbortJobClears : Prop :=
  ∀ (s : State) (o : OrderParcel) (rest : List OrderPlace), s.dev.offers o rest → o.hdr.code = 6 → o.body = [] →
    (s.dev.pc.job = .config → exec .abortJob s = .next (s.answering rest o.hdr .ok [])) ∧
    (s.dev.pc.job ≠ .config → ∃ t, exec .abortJob s = .next t ∧ t.pending = s.pending ∧
      t.dev.cp = s.dev.cp.answered rest o.hdr .ok [] ∧ t.dev.mem = s.dev.mem ∧ t.dev.tab = s.dev.tab ∧
      t.dev.now = s.dev.now ∧ t.dev.freeCount = s.dev.freeCount ∧ t.dev.resetPin = false ∧
      t.dev.ib = { complete := [], filling := none } ∧ t.dev.le = none ∧ t.dev.ls.fetchQ = [] ∧ t.dev.ls.writeQ = [] ∧
      (∀ p, t.dev.ring p = (s.dev.ring p).map (fun g => { g with oldest := 0, slots := [] })) ∧
      t.dev.pc = { s.dev.pc with
        job := .config, queue := [], departed := t.dev.pc.departed, boundLimit := none, anchor := none, qualifier := none } ∧
      t.dev.ou = { s.dev.ou with devEvents := s.dev.ou.devEvents ||| 64 } ∧
      t.dev.pu = { s.dev.pu with rows := t.dev.pu.rows } ∧
      (∀ p r, t.dev.rowPos p r = (s.dev.rowPos p r).jobEnded ∧ t.dev.pipe p r = (s.dev.pipe p r).emptied) ∧
      ∀ p, t.dev.port p = (s.dev.port p).jobEnded false (s.dev.pipe p))

/-- ANNOUNCE: NOT_RUNNING outside RUN, then DUP_TAG, then QUEUE_FULL at 16 records, each without effect; else a record joins the newest
end, ANNOUNCED, with both counts 0, a length of 0 stored as 1 with CLAMPED_WRITE set and counted. -/
def Obligations.AnnounceJudged : Prop :=
  ∀ (s : State) (o : OrderParcel) (rest : List OrderPlace) (w : Word), s.dev.offers o rest → o.hdr.code = 7 → o.body = [w] →
    let tag : Tag := w.extractLsb' 24 8
    let length := (w.extractLsb' 0 24).toNat
    let held := ∃ q ∈ s.dev.pc.queue, q.tag = tag
    (s.dev.pc.job ≠ .run → exec .announce s = .next (s.answering rest o.hdr .notRunning [])) ∧
    (s.dev.pc.job = .run → held → exec .announce s = .next (s.answering rest o.hdr .dupTag [])) ∧
    (s.dev.pc.job = .run → ¬ held → 16 ≤ s.dev.pc.queue.length → exec .announce s = .next (s.answering rest o.hdr .queueFull [])) ∧
    (s.dev.pc.job = .run → ¬ held → s.dev.pc.queue.length < 16 → ∃ t, exec .announce s = .next t ∧
      t = { s with dev := { s.dev with
        cp := s.dev.cp.answered rest o.hdr .ok []
        pc := { s.dev.pc with queue := s.dev.pc.queue ++
          [{ tag := tag, length := max length 1, state := .announced, starved := 0, skipped := 0 }] }
        ou := { s.dev.ou with
          devEvents := if length = 0 then s.dev.ou.devEvents ||| 32 else s.dev.ou.devEvents
          devCounts := t.dev.ou.devCounts } } } ∧
      counted s.dev t.dev (fun c => if c = .clampedWrites ∧ length = 0 then 1 else 0))

/-- GO: NOT_RUNNING in CONFIG; in RUN and STOPPING a trigger, judged at the line count of its instant, whose outcome the reply's word
names. -/
def Obligations.GoTriggers : Prop :=
  ∀ (s : State) (o : OrderParcel) (rest : List OrderPlace), s.dev.offers o rest → o.hdr.code = 8 → o.body = [] →
    (s.dev.pc.job = .config → exec .go s = .next (s.answering rest o.hdr .notRunning [])) ∧
    (s.dev.pc.job ≠ .config → ∃ t word, exec .go s = .next t ∧ t.pending = s.pending ∧
      t.dev.cp = s.dev.cp.answered rest o.hdr .ok [word] ∧ triggerJudged s.dev t.dev word)

/-- PDI_QUALIFY_EXPIRY, the qualify time over: while the qualifier acts it is a PDI trigger, judged at the line count of its instant;
else the qualifier becomes IDLE and no trigger results. -/
def Obligations.QualifyExpiryTriggers : Prop :=
  ∀ (s : State) (e : Nat), s.dev.working → s.dev.pc.qualifier = some e → e ≤ s.dev.now →
    let idle : Device := { s.dev with pc := { s.dev.pc with qualifier := none } }
    let acts := s.dev.pc.job ≠ .config ∧
      (s.dev.tab.job.source = .pdi ∨ (s.dev.tab.job.source = .pitch ∧ s.dev.pc.bindingMade = false))
    (¬ acts → exec .pdiQualifyExpiry s = .next { s with dev := idle }) ∧
    (acts → ∃ t word, exec .pdiQualifyExpiry s = .next t ∧ t.pending = s.pending ∧ t.dev.cp = s.dev.cp ∧ triggerJudged idle t.dev word)

/-! ### Head ports by order -/

/-- LOAD_WAVES: NOT_CONFIG outside CONFIG; in CONFIG every named port that is UNLOADED or READY, the latter leaving READY, enters
LOADING with no waveform acknowledged, a load timer of 1 ms and four WAVEFORM tokens behind its others. With a port LOADING the order
stays in execution; with none it is answered at once with the port status words. Rests on logs 22, 40 and 47. -/
def Obligations.LoadWavesStarts : Prop :=
  ∀ (s : State) (o : OrderParcel) (rest : List OrderPlace) (w : Word), s.dev.offers o rest → o.hdr.code = 9 → o.body = [w] →
    (s.dev.pc.job ≠ .config → exec .loadWaves s = .next (s.answering rest o.hdr .notConfig [])) ∧
    (s.dev.pc.job = .config → ∃ t, exec .loadWaves s = .next t ∧ t.pending = s.pending ∧
      t.dev = { s.dev with
        cp := t.dev.cp, ou := t.dev.ou, rf := t.dev.rf, hp := t.dev.hp
        ls := { s.dev.ls with fetchQ := t.dev.ls.fetchQ, service := t.dev.ls.service } } ∧
      (∀ p, let hp := s.dev.port p
        let starts : Bool := w.getLsbD p.val && (hp.state == .unloaded || hp.state == .ready)
        let base := if hp.state = .ready then hp.left (s.dev.head p).rowCount (s.dev.head p).enabled .loading else hp
        t.dev.port p = (if starts then
          { base with
            state := .loading
            acked := .replicate 4 false
            loadAt := some (s.dev.now + 100000)
            tokens := base.tokens ++ [0, 1, 2, 3].map (fun i : Fin 4 => Token.waveform i (vget (vget s.dev.tab.waves p) i)) }
          else hp) ∧
        ∀ r, t.dev.pipe p r = if starts ∧ hp.state = .ready then (s.dev.pipe p r).emptied else s.dev.pipe p r) ∧
      ((∃ p, (t.dev.port p).state = .loading) →
        t.dev.cp = s.dev.cp.taken rest ∧ t.dev.ou = { s.dev.ou with exec := some (.loadWaves o.hdr) }) ∧
      ((∀ p, (t.dev.port p).state ≠ .loading) →
        t.dev.cp = s.dev.cp.answered rest o.hdr .ok (allPorts.map (fun p => (t.dev.port p).statusWord)) ∧ t.dev.ou = s.dev.ou))

/-- UNPARK, in every job state: each named PARKED port enters UNLOADED with its silent counter 0 and no fault recorded; the reply holds
the sixteen port status words after the change, and nothing else changes. -/
def Obligations.UnparkRestores : Prop :=
  (∀ (s : State) (o : OrderParcel) (rest : List OrderPlace) (w : Word), s.dev.offers o rest → o.hdr.code = 10 → o.body = [w] →
    ∃ t, exec .unpark s = .next t ∧
      t = { s with dev := { s.dev with
        hp := t.dev.hp
        cp := s.dev.cp.answered rest o.hdr .ok (allPorts.map (fun p => (t.dev.port p).statusWord)) } } ∧
      ∀ p, t.dev.port p = if w.getLsbD p.val = true ∧ (s.dev.port p).state = .parked then
        { s.dev.port p with state := .unloaded, silent := 0, fault := none } else s.dev.port p) ∧
  (∀ hp : HeadPort, hp.statusWord = BitVec.ofNat 32 (
    [PortState.disabled, .down, .unloaded, .loading, .ready, .parked].idxOf hp.state + 256 * (hp.fault.getD 0).toNat +
      65536 * hp.silent + (if hp.sync = .inSync then 16777216 else 0) + (if hp.fault = none then 0 else 33554432)))

/-! ### Landing -/

/-- A pickup takes the oldest complete copy. A tag in no record is counted UNANNOUNCED, and the copy goes. Else each taking head is
judged by OUT_OF_PAGE, STALE, LATE and OVERRUN in that order: a refusal counts, LATE and OVERRUN set their events, an acceptance
appends a FILLING slot with no row done; a landing starts where a head accepted, with what the pickup samples.
Rests on logs 21 and 34. -/
def Obligations.PickupJudges : Prop :=
  ∀ (s : State) (c : LineCopy) (rest : List LineCopy), s.dev.working → s.dev.le = none → s.dev.ib.complete = c :: rest →
    s.dev.pc.job ≠ .config →
    ((∀ q ∈ s.dev.pc.queue, q.tag ≠ c.hdr.tag) → ∃ t, exec .pickup s = .next t ∧
      t = { s with dev := { s.dev with
        ib := { s.dev.ib with complete := rest }, ou := { s.dev.ou with devCounts := t.dev.ou.devCounts } } } ∧
      counted s.dev t.dev (fun k => if k = .unannounced then 1 else 0)) ∧
    (∀ q, s.dev.pc.queue.find? (fun q => q.tag == c.hdr.tag) = some q → ∃ t, exec .pickup s = .next t ∧
      (let line := c.hdr.line.toNat
      let first := c.hdr.firstColumn.toNat
      let taking : PortIx → Bool := fun p => (s.dev.head p).enabled && (s.dev.head p).plane.val == c.hdr.plane.toNat &&
        first ≤ (s.dev.head p).origin && (s.dev.head p).origin + (s.dev.head p).nozzles ≤ first + (c.hdr.countMinus1.toNat + 1)
      let stale : PortIx → Bool := fun p => ((s.dev.ring p).bind (fun g => g.slots.getLast?)).any (fun k =>
        !s.dev.pc.before { tag := k.tag, line := k.line } { tag := c.hdr.tag, line := line })
      let late : PortIx → Bool := fun p => q.base.any (fun b => (s.dev.mostAdvanced p).any (fun x =>
        decide (notAhead (b + BitVec.ofNat 32 line) x)))
      let full : PortIx → Bool := fun p => (s.dev.ring p).all (fun g => g.capacity ≤ g.slots.length)
      let outcome : PortIx → Acceptance := fun p =>
        if q.length ≤ line then .outOfPage else if stale p then .stale else if late p then .late
        else if full p then .overrun else .accepted
      let accepts : PortIx → Bool := fun p => taking p && outcome p == .accepted
      let accepting := allPorts.filter accepts
      t = { s with dev := { s.dev with
        ib := { s.dev.ib with complete := rest }
        ou := { s.dev.ou with headEvents := t.dev.ou.headEvents, headCounts := t.dev.ou.headCounts }
        ls := { s.dev.ls with rings := t.dev.ls.rings }
        le := if accepting = [] then none else some
          { copy := c, plane := vget s.dev.tab.planes (Fin.ofNat 8 c.hdr.plane.toNat), nozzles := s.dev.tab.nozzles,
            heads := s.dev.tab.heads, accepting := accepting, toRaise := accepting, incomplete := accepting.length, lost := [] } } } ∧
      (∀ p, t.dev.ring p = if accepts p then (s.dev.ring p).map (fun g => { g with slots := g.slots ++
        [{ tag := c.hdr.tag, line := line, state := .filling, done := .replicate 4 false }] }) else s.dev.ring p) ∧
      (∀ p, vget t.dev.ou.headEvents p = vget s.dev.ou.headEvents p |||
        (if taking p ∧ outcome p = .late then 1 else 0) ||| (if taking p ∧ outcome p = .overrun then 2 else 0)) ∧
      headCounted s.dev t.dev (fun p k => if taking p = true ∧
        ((k = .outOfPage ∧ outcome p = .outOfPage) ∨ (k = .stale ∧ outcome p = .stale) ∨ (k = .late ∧ outcome p = .late) ∨
          (k = .overrun ∧ outcome p = .overrun)) then 1 else 0)))

/-- The final codes of the next accepting head are known: its landing write, with the codes of its rows packed four to a byte from the
slot's first byte on, joins the queue, or goes into service where the memory port is free. Rests on logs 10 and 36. -/
def Obligations.LandingWriteRaises : Prop :=
  ∀ (s : State) (g : Landing) (p : PortIx) (ps : List PortIx) (ring : Ring) (i : Nat), s.dev.working → s.dev.le = some g →
    g.toRaise = p :: ps → s.dev.ring p = some ring →
    ring.slots.findIdx? (fun k => k.tag == g.copy.hdr.tag && k.line == g.copy.hdr.line.toNat) = some i →
    let h := vget g.heads p
    let w : LandWrite :=
      { port := p
        addr := ring.base * 1048576 + (ring.oldest + i) % ring.capacity * ring.slotBytes
        bytes := (List.range h.rowCount).flatMap (fun r =>
          packCodes ((List.range h.nozzlesPerRow).map (fun k => g.finalCode p (k * h.rowCount + r))))
        live := true }
    exec .landingWriteRaised s = .next { s with dev := { s.dev with
      le := some { g with toRaise := ps, lost := g.lost ++ [(p, g.lostDrops p)] }
      ls := if s.dev.ls.service = none then { s.dev.ls with service := some (.landWrite w) }
        else { s.dev.ls with writeQ := s.dev.ls.writeQ ++ [w] } } }

/-- A landing write completes: exactly its bytes are stored. A write of an abandoned landing changes nothing else; the last of a live
landing makes its slots LANDED, counts LANDED and LOST_DROPS, releases slots from the oldest end, and sends the rows that wait for
the line to fetch it; any other leaves the landing in flight. A write that reaches memory not installed stops the model (log 9).
Rests on logs 9 and 10. -/
def Obligations.LandingWriteCompletes : Prop :=
  ∀ (s : State) (w : LandWrite), s.dev.working → s.dev.ls.service = some (.landWrite w) →
    (segmentsOf s.dev.ou.memory * 1048576 < w.addr + w.bytes.length → exec .landingWriteComplete s = .fault (.absentMemory w.addr)) ∧
    (w.addr + w.bytes.length ≤ segmentsOf s.dev.ou.memory * 1048576 → ∃ t, exec .landingWriteComplete s = .next t ∧
      t.pending = s.pending ∧
      (∀ a, a < w.addr ∨ w.addr + w.bytes.length ≤ a → readByte t.dev.mem a = readByte s.dev.mem a) ∧
      (∀ (i : Nat) (h : i < w.bytes.length), readByte t.dev.mem (w.addr + i) = w.bytes[i]) ∧
      (s.dev.ls.window = none →
        (w.live = false → t = { s with dev := { s.dev with mem := t.dev.mem, ls := s.dev.ls.freed } }) ∧
        (∀ g, w.live = true → s.dev.le = some g → 2 ≤ g.incomplete → t = { s with dev := { s.dev with
          mem := t.dev.mem, ls := s.dev.ls.freed, le := some { g with incomplete := g.incomplete - 1 } } })) ∧
      (∀ g, w.live = true → s.dev.le = some g → g.incomplete ≤ 1 → g.accepting.Nodup →
        let pl : PageLine := { tag := g.copy.hdr.tag, line := g.copy.hdr.line.toNat }
        t.dev.le = none ∧ t.dev.tab = s.dev.tab ∧ t.dev.pc = s.dev.pc ∧ t.dev.pu = s.dev.pu ∧ t.dev.ib = s.dev.ib ∧
        t.dev.hp = s.dev.hp ∧ t.dev.now = s.dev.now ∧ t.dev.ou.devEvents = s.dev.ou.devEvents ∧
        t.dev.ou.headEvents = s.dev.ou.headEvents ∧ t.dev.ou.devCounts = s.dev.ou.devCounts ∧
        headCounted s.dev t.dev (fun p k => if p ∈ g.accepting then
          (if k = .landed then 1 else if k = .lostDrops then ((g.lost.find? (fun x => x.1 == p)).map (·.2)).getD 0 else 0) else 0) ∧
        (∀ p ∉ g.accepting, t.dev.ring p = s.dev.ring p ∧ ∀ r, t.dev.pipe p r = s.dev.pipe p r) ∧
        (∀ p ∈ g.accepting, ∀ ring, s.dev.ring p = some ring →
          let slots := ring.slots.map (fun k => if k.tag = pl.tag ∧ k.line = pl.line then { k with state := .landed } else k)
          let left := slots.dropWhile (fun k => k.state == .landed && allRows.all (fun r =>
            vget k.done r == decide (r.val < ring.rowCount)))
          t.dev.ring p = some { ring with slots := left, oldest := (ring.oldest + (slots.length - left.length)) % ring.capacity } ∧
          (∀ r x, (s.dev.pipe p r).stage = .waiting x pl → s.dev.printing p r = true →
            (∃ k ∈ left, k.tag = pl.tag ∧ k.line = pl.line) →
            t.dev.pipe p r = { s.dev.pipe p r with stage := .fetching x pl }) ∧
          (∀ r x other, (s.dev.pipe p r).stage = .waiting x other → other ≠ pl → s.dev.printing p r = true →
            (∀ k ∈ left, k.tag = other.tag → k.line ≠ other.line) →
            t.dev.pipe p r = if s.dev.pc.before other pl then { s.dev.pipe p r with stage := .empty, missing := true }
              else s.dev.pipe p r) ∧
          (∀ r, (∀ x q, (s.dev.pipe p r).stage ≠ .waiting x q) → t.dev.pipe p r = s.dev.pipe p r))))

/-- A row fetch completes. For a stage that is FETCHING that line in a fetch mode with its target ahead of the row, the codes read from
the row block are staged, and handed over to a CLEAR latch of a printing row as the frame that FrameSentReports describes; where the
row has passed the target, or the mode is a pattern mode, no stage holds codes; for any other stage, or a fetch whose data is to be
dropped, nothing but the memory port changes. A fetch that reaches memory not installed stops the model (log 9). Rests on logs 9, 10,
22 and 27. -/
def Obligations.RowFetchCompletes : Prop :=
  ∀ (s : State) (f : Fetch), s.dev.working → s.dev.ls.service = some (.fetch f) → s.dev.ls.window = none →
    (segmentsOf s.dev.ou.memory * 1048576 < f.addr + f.len → exec .rowFetchComplete s = .fault (.absentMemory f.addr)) ∧
    (f.addr + f.len ≤ segmentsOf s.dev.ou.memory * 1048576 →
      let q := s.dev.pipe f.port f.row
      let pl : PageLine := { tag := f.tag, line := f.line }
      let fetching := (s.dev.head f.port).testMode = .normal ∨ (s.dev.head f.port).testMode = .mute
      let codes := (List.range (4 * f.len)).map (fun k =>
        (readByte s.dev.mem (f.addr + k / 4)).toNat / 4 ^ (3 - k % 4) % 4)
      (((∀ x, q.stage ≠ .fetching x pl) ∨ f.live = false) →
        exec .rowFetchComplete s = .next { s with dev := { s.dev with ls := s.dev.ls.freed } }) ∧
      (∀ x, q.stage = .fetching x pl → f.live = true → fetching → ¬ notAhead x (s.dev.standing f.port f.row) →
        (q.latch ≠ .clear ∨ s.dev.printing f.port f.row = false) →
        exec .rowFetchComplete s = .next { s with dev := { s.dev with
          ls := s.dev.ls.freed
          rf := rmod s.dev.rf f.port f.row (fun q => { q with stage := .staged x (some codes) }) } }) ∧
      (∀ x, q.stage = .fetching x pl → f.live = true → fetching → ¬ notAhead x (s.dev.standing f.port f.row) →
        q.latch = .clear → s.dev.printing f.port f.row = true →
        ∃ t, exec .rowFetchComplete s = .next t ∧ s.dev.sameButRows t.dev ∧ (t.dev.pipe f.port f.row).latch = .sending x ∧
          t.dev.port f.port = (s.dev.port f.port).takeFrame (s.dev.head f.port) f.row x (some codes)) ∧
      (∀ x, q.stage = .fetching x pl → f.live = true → (¬ fetching ∨ notAhead x (s.dev.standing f.port f.row)) →
        ∃ t, exec .rowFetchComplete s = .next t ∧ s.dev.sameButRows t.dev ∧
          ∀ x' cs, (t.dev.pipe f.port f.row).stage ≠ .staged x' (some cs)))

/-! ### The encoder, the rows and the product-detect input -/

/-- A forward edge of a running job: the debt falls by R with no advance, or what is left of R is the advance; the phase advances with
one line where it reaches 65,536; a full-advance edge measures the interval and becomes the reference, a repaying edge loses both. The
edge's events follow, the global line event before or after the crossings in port and row order (log 18), then the arming of the timers.
A global line event at the count of the scheduled PITCH trigger makes that trigger, which refused moves the anchor on; no other does
anything. Unless the edge ends the job, a row whose threshold the advance reaches stands at the crossing's position, or consumes its
taken mark; its timer is idle or armed afresh, and one armed for a crossing no time away expires at once: the row stands at the pending
position with its taken mark set. Any other row keeps position and mark. Rests on logs 18, 29 and 31. -/
def Obligations.ForwardEdgeAdvances : Prop :=
  (∀ d : Device, pitchJudged d d.globalLineEvent) ∧
  ∀ (s : State) (order : EdgeOrder), s.dev.working → s.dev.pc.job ≠ .config → due s.dev.now s.dev.filterDue = true →
    s.dev.tab.job.pitchRatio ≠ 0 →
    let u := s.dev.pu
    let a := u.chA.complete s.dev.filterDue (s.dev.channelDue u.chA)
    let b := u.chB.complete s.dev.filterDue (s.dev.channelDue u.chB)
    decodePair s.dev.tab.job.sense u.pair (a.filtered, b.filtered) = .forward →
    ∃ t, exec (.filteredTransition order) s = .next t ∧ t.pending = s.pending ∧
      (let R := s.dev.tab.job.pitchRatio
      let A := R - u.debt
      let wraps := 65536 ≤ u.phase + A
      let P := if wraps then u.phase + A - 65536 else u.phase + A
      let n : Pos := if wraps then u.count + 1 else u.count
      let timer := u.reference.map (fun t0 => min (s.dev.now - t0) 1048575)
      let valid : Bool := u.debt == 0 && timer.any (fun i => decide (i < 1048575))
      let I := if u.debt = 0 then timer.getD u.interval else u.interval
      let moved : Position := { u with
        chA := a
        chB := b
        pair := (a.filtered, b.filtered)
        debt := u.debt - R
        phase := P
        count := n
        reference := if u.debt = 0 then some s.dev.now else none
        interval := I
        intervalValid := valid }
      let crossing : PortIx → RowIx → Option Pos := fun p r => (s.dev.rowPos p r).crossing.bind (fun c =>
        if u.phase < c.threshold ∧ c.threshold ≤ u.phase + A then
          some (u.count + BitVec.ofNat 32 (c.threshold / 65536) - BitVec.ofNat 32 c.delay)
        else if u.phase < c.threshold + 65536 ∧ c.threshold + 65536 ≤ u.phase + A then
          some (u.count + BitVec.ofNat 32 (c.threshold / 65536 + 1) - BitVec.ofNat 32 c.delay)
        else none)
      let line := fun d : Device => if wraps ∧ d.pc.job ≠ .config then d.globalLineEvent else d
      let rows := fun d : Device => allPortRows.foldl (fun d k => match crossing k.1 k.2 with
        | some x => d.cross k.1 k.2 x
        | none => d) d
      let start : Device := { s.dev with pu := moved }
      let events := match order with
        | .lineFirst => rows (line start)
        | .rowsFirst => line (rows start)
      t.dev = (s.dev.inRowOrder (if u.debt = 0 then events.armTimers else events)).settle ∧
      t.dev.pu = { moved with rows := t.dev.pu.rows } ∧
      t.dev.tab = s.dev.tab ∧ t.dev.mem = s.dev.mem ∧ t.dev.ib = s.dev.ib ∧ t.dev.le = s.dev.le ∧ t.dev.cp = s.dev.cp ∧
      t.dev.now = s.dev.now ∧
      (t.dev.pc.job ≠ .config → ∀ p r,
        let q := s.dev.rowPos p r
        let own := crossing p r
        let old := if own.isSome ∧ q.taken = false then none else q.timer
        let taken := if own.isSome then false else q.taken
        let armed : Option RowTimer :=
          if valid ∧ s.dev.tab.job.interpolation = true ∧ old = none ∧ taken = false then q.crossing.bind (fun c =>
            let dist := if P < c.threshold then c.threshold - P else c.threshold + 65536 - P
            if dist ≤ R then some
              { expiry := s.dev.now + dist * I / R
                pending := n + BitVec.ofNat 32 ((P + dist) / 65536) - BitVec.ofNat 32 c.delay }
            else none) else none
        let crossed := { q with position := if own.isSome ∧ q.taken = false then own else q.position, timer := old, taken := taken }
        t.dev.rowPos p r = match armed with
          | some k => if k.expiry ≤ s.dev.now then { crossed with position := some k.pending, timer := none, taken := true }
              else { crossed with timer := some k }
          | none => crossed))

/-- The decoder: a change of one channel is an edge, forward along the cycle in which A leads under sense 0 and against it under sense
1; a change of both is an error. A backward edge of a running job adds R to the debt, at most to 1,048,576 with REVERSE_LIMIT set and
counted beyond; it cancels every armed timer and loses interval and reference, and changes nothing else of web and rows. An encoder
error is counted and loses interval and reference. In CONFIG the decoder takes the new pair and nothing else happens.
Rests on log 30. -/
def Obligations.BackwardEdgeAndError : Prop :=
  (∀ a b a' b' : Bool,
    let judge := fun sense => decodePair sense (a, b) (a', b')
    let aLeading := (a = a' ∧ b ≠ b' ∧ b' = a) ∨ (b = b' ∧ a ≠ a' ∧ a' ≠ b)
    (a = a' ∧ b = b' → judge .aLeads = .still ∧ judge .bLeads = .still) ∧
    (a ≠ a' ∧ b ≠ b' → judge .aLeads = .error ∧ judge .bLeads = .error) ∧
    (a ≠ a' ∧ b = b' ∨ a = a' ∧ b ≠ b' →
      judge .aLeads = (if aLeading then .forward else .backward) ∧ judge .bLeads = (if aLeading then .backward else .forward))) ∧
  ∀ (s : State) (order : EdgeOrder), s.dev.working → due s.dev.now s.dev.filterDue = true →
    let u := s.dev.pu
    let a := u.chA.complete s.dev.filterDue (s.dev.channelDue u.chA)
    let b := u.chB.complete s.dev.filterDue (s.dev.channelDue u.chB)
    let taken : Position := { u with chA := a, chB := b, pair := (a.filtered, b.filtered) }
    let move := decodePair s.dev.tab.job.sense u.pair (a.filtered, b.filtered)
    (s.dev.pc.job = .config ∨ move = .still →
      exec (.filteredTransition order) s = .next { s with dev := { s.dev with pu := taken } }) ∧
    (s.dev.pc.job ≠ .config → move = .backward → ∃ t, exec (.filteredTransition order) s = .next t ∧
      (let sum := u.debt + s.dev.tab.job.pitchRatio
      t = { s with dev := { s.dev with
        pu := { taken with debt := min sum 1048576, intervalValid := false, reference := none, rows := t.dev.pu.rows }
        ou := { s.dev.ou with
          devEvents := if 1048576 < sum then s.dev.ou.devEvents ||| 4096 else s.dev.ou.devEvents
          devCounts := t.dev.ou.devCounts } } } ∧
      (∀ p r, t.dev.rowPos p r = { s.dev.rowPos p r with timer := none }) ∧
      counted s.dev t.dev (fun c => if c = .reverseLimits ∧ 1048576 < sum then 1 else 0))) ∧
    (s.dev.pc.job ≠ .config → move = .error → ∃ t, exec (.filteredTransition order) s = .next t ∧
      t = { s with dev := { s.dev with
        pu := { taken with intervalValid := false, reference := none }
        ou := { s.dev.ou with devEvents := s.dev.ou.devEvents ||| 2048, devCounts := t.dev.ou.devCounts } } } ∧
      counted s.dev t.dev (fun c => if c = .encoderErrors then 1 else 0))

/-- An interpolation timer's expiry is the row's line event at the pending position: the row stands there with its timer idle and its
taken mark set, unless the event ends the job, which clears the mark; before the expiry nothing changes. A row line event, wherever it
comes from, makes every BOUND record that the row has reached ACTIVE, counts a starved or skipped line in its record, finishes records
from the oldest on once every enabled row has reached their last lines, with PAGE_DONE, PAGES_DONE and the last-page report, ends the
bound limit once every enabled row has reached it, and brings a stopping job whose last record finished to CONFIG with JOB_STOPPED.
Rests on logs 19, 20 and 28. -/
def Obligations.TimerExpiryDelivers : Prop :=
  (∀ (s : State) (p : PortIx) (r : RowIx) (k : RowTimer), s.dev.working → (s.dev.rowPos p r).timer = some k →
    (s.dev.now < k.expiry → exec (.interpolationTimerExpiry p r) s = .next s) ∧
    (k.expiry ≤ s.dev.now → ∃ t, exec (.interpolationTimerExpiry p r) s = .next t ∧ t.pending = s.pending ∧
      t.dev = (s.dev.inRowOrder ((s.dev.modRowPos p r (fun q => { q with timer := none, taken := true })).rowLineEvent p r
        k.pending)).settle ∧
      t.dev.rowPos p r = { s.dev.rowPos p r with
        position := some k.pending, timer := none, taken := t.dev.pc.job != .config || s.dev.pc.job == .config } ∧
      t.dev.pu = { s.dev.pu with rows := t.dev.pu.rows } ∧ t.dev.tab = s.dev.tab ∧ t.dev.mem = s.dev.mem ∧
      t.dev.ib = s.dev.ib ∧ t.dev.le = s.dev.le ∧ t.dev.cp = s.dev.cp ∧ t.dev.now = s.dev.now)) ∧
  ∀ (d : Device) (p : PortIx) (r : RowIx) (x : Pos),
    let b := d.rowLineEvent p r x
    let finished := d.pagesOver p r x
    b = { d with pc := b.pc, pu := b.pu, ou := b.ou, rf := b.rf, hp := b.hp, ls := b.ls } ∧
    b.pc = { d.pc with
      queue := (d.pagesAt p r x).dropWhile (d.pageOver p r x)
      departed := b.pc.departed
      report := match finished.getLast? with
        | some q => some { tag := q.tag, starved := q.starved, skipped := q.skipped }
        | none => d.pc.report
      boundLimit := if d.pc.boundLimit.any (d.allReach p r x) then none else d.pc.boundLimit
      job := if d.jobOver p r x then .config else d.pc.job
      qualifier := if d.jobOver p r x then none else d.pc.qualifier } ∧
    b.ou = { d.ou with
      devEvents := d.ou.devEvents ||| (if finished = [] then 0 else 128) ||| (if d.jobOver p r x then 64 else 0)
      headEvents := b.ou.headEvents, devCounts := b.ou.devCounts, headCounts := b.ou.headCounts } ∧
    counted d b (fun c => if c = .pagesDone then finished.length else 0) ∧
    b.pu = { d.pu with rows := b.pu.rows } ∧
    ∀ p' r', b.rowPos p' r' =
      let q := if (p', r') = (p, r) then { d.rowPos p' r' with position := some x } else d.rowPos p' r'
      if d.jobOver p r x then q.jobEnded else q

/-- What becomes of the line at a row line event of a job, from a timer or at its edge: a printing row with a hold skips a page line; one
whose latch is LOADED with the line fires it, or holds it while less than the MFI has passed; else it starves it, and a passed line in
the latch is discarded. At a gap position a row in a fetch mode does nothing. A passed WAITING or STAGED stage is dropped, and an EMPTY
stage is filled from the ring, its fetch raised, its line handed over where the latch is CLEAR. A row that is not printing counts nothing,
sets no event and raises no token. Only this row and this row's head are touched, until the event ends the job, which empties every
pipeline but its held line. A crossing at its edge is such an event, unless its taken mark is consumed or the job is over. At a timer's
expiry the tokens raised stand in row order behind the port's others. Rests on logs 18, 19,
27, 28 and 45. -/
def Obligations.RowLineEventDecides : Prop :=
  (∀ (d : Device) (p : PortIx) (r : RowIx) (x : Pos),
    (d.pc.job = .config → d.cross p r x = d) ∧
    (d.pc.job ≠ .config → (d.rowPos p r).taken = true → d.cross p r x = d.modRowPos p r (fun q => { q with taken := false })) ∧
    (d.pc.job ≠ .config → (d.rowPos p r).taken = false →
      d.cross p r x = (d.modRowPos p r (fun q => { q with timer := none })).rowLineEvent p r x)) ∧
  (∀ (d : Device) (p : PortIx) (r : RowIx) (x : Pos), d.pc.job ≠ .config →
    let b := d.rowLineEvent p r x
    let fate := d.lineFate p r x
    let decided := d.rowDecided p r x
    let hands := if d.printing p r then (decided.filled (d.head p) d.pc (b.ring p) x).toHand else none
    let row := fun r' => if r' = r ∧ d.printing p r = true then decided.prepared (d.head p) d.pc (b.ring p) x else d.pipe p r'
    let port := match hands with
      | some (y, codes) => (d.portDecided p r x).takeFrame (d.head p) r y codes
      | none => d.portDecided p r x
    headCounted d b (fun p' c => if p' = p ∧
      ((c = .skipped ∧ fate = .skipped) ∨ (c = .fired ∧ fate = .fired) ∨ (c = .starved ∧ fate = .starved)) then 1 else 0) ∧
    (∀ p', vget b.ou.headEvents p' = vget d.ou.headEvents p' |||
      (if p' = p ∧ fate = .skipped then 8 else 0) ||| (if p' = p ∧ fate = .starved then 4 else 0)) ∧
    (∀ p' r', b.pipe p' r' =
      let q := if p' = p then row r' else d.pipe p' r'
      if d.jobOver p r x then q.jobEnded true else q) ∧
    (∀ p', b.port p' =
      let hp := if p' = p then port else d.port p'
      if d.jobOver p r x then hp.jobEnded true (if p' = p then row else d.pipe p') else hp) ∧
    (∀ g y pl, b.ring p = some g → d.printing p r = true → ¬ d.jobOver p r x → decided.stage ≠ .fetching y pl →
      (b.pipe p r).stage = .fetching y pl → b.fetchAsked p r g pl)) ∧
  ∀ (s : State) (p : PortIx) (r : RowIx) (k : RowTimer), s.dev.working → (s.dev.rowPos p r).timer = some k → k.expiry ≤ s.dev.now →
    ∃ t, exec (.interpolationTimerExpiry p r) s = .next t ∧
      (let q := s.dev.pipe p r
      let x := k.pending
      let fate := s.dev.lineFate p r x
      headCounted s.dev t.dev (fun p' c => if p' = p ∧
        ((c = .skipped ∧ fate = .skipped) ∨ (c = .fired ∧ fate = .fired) ∨ (c = .starved ∧ fate = .starved)) then 1 else 0) ∧
      (∀ p', vget t.dev.ou.headEvents p' = vget s.dev.ou.headEvents p' |||
        (if p' = p ∧ fate = .skipped then 8 else 0) ||| (if p' = p ∧ fate = .starved then 4 else 0)) ∧
      (t.dev.pipe p r).hold = (if fate = .held then some x else q.hold) ∧
      (t.dev.pipe p r).lastFire = (if fate = .fired then s.dev.now else q.lastFire) ∧
      (∀ p', (s.dev.port p').tokens <+: (t.dev.port p').tokens) ∧
      (fate = .fired → .fire r ∈ (t.dev.port p).tokens.drop (s.dev.port p).tokens.length) ∧
      (fate = .starved → q.latch.isLoaded = true → .discard r ∈ (t.dev.port p).tokens.drop (s.dev.port p).tokens.length) ∧
      (∀ p', ((t.dev.port p').tokens.drop (s.dev.port p').tokens.length).Pairwise (fun a b => a.row ≤ b.row)) ∧
      (s.dev.printing p r = false → t.dev.pc.job = s.dev.pc.job → t.dev.rf = s.dev.rf ∧ t.dev.hp = s.dev.hp))

/-- A done notice at a row line event marks the row in every held slot at or before its page line, and LANDED slots with a full
rows-done set leave from the oldest end; other rings stay, and so do all at a gap position and at an event of a row not enabled. So it is
at a timer's expiry. Rests on logs 19 and 21. -/
def Obligations.DoneNoticeMarksAndReleases : Prop :=
  (∀ (d : Device) (p : PortIx) (r : RowIx) (x : Pos),
    let b := d.rowLineEvent p r x
    (d.rowEnabled p r = false ∨ lineUnder d.pc.queue x = none → ∀ p', b.ring p' = d.ring p') ∧
    (∀ pl, d.rowEnabled p r = true → lineUnder d.pc.queue x = some pl →
      (∀ p', p' ≠ p ∨ d.ring p' = none → b.ring p' = d.ring p') ∧
      ∀ g, d.ring p = some g → ∃ gone left, b.ring p = some { g with slots := left, oldest := (g.oldest + gone.length) % g.capacity } ∧
        gone ++ left = g.slots.map (fun slot =>
          if d.pc.before pl { tag := slot.tag, line := slot.line } then slot else { slot with done := vset slot.done r true }) ∧
        (∀ slot ∈ gone, slot.state = .landed ∧ ∀ r' : RowIx, vget slot.done r' = decide (r'.val < g.rowCount)) ∧
        (∀ slot ∈ left.head?, ¬ (slot.state = .landed ∧ ∀ r' : RowIx, vget slot.done r' = decide (r'.val < g.rowCount))))) ∧
  ∀ (s : State) (p : PortIx) (r : RowIx) (k : RowTimer), s.dev.working → (s.dev.rowPos p r).timer = some k → k.expiry ≤ s.dev.now →
    ∃ t, exec (.interpolationTimerExpiry p r) s = .next t ∧ ∀ p', t.dev.ring p' = (s.dev.rowLineEvent p r k.pending).ring p'

/-- A hold is released at its release time, the last fire time plus the MFI: FIRE is raised and counted, the last fire time is now,
the hold is over and the idle tickle timer of a READY port restarts; the latch is CLEAR, so that a printing row hands a STAGED line
over. Before it nothing changes. Rests on log 26. -/
def Obligations.HoldReleaseFires : Prop :=
  ∀ (s : State) (p : PortIx) (r : RowIx) (y : Pos), s.dev.working → (s.dev.pipe p r).hold = some y →
    let release := (s.dev.pipe p r).lastFire + 5 * (longestWaveform (vget s.dev.tab.waves p) + (s.dev.head p).settle)
    (s.dev.now < release → exec (.holdRelease p r) s = .next s) ∧
    (release ≤ s.dev.now → ∃ t, exec (.holdRelease p r) s = .next t ∧ t.pending = s.pending ∧
      t.dev = { s.dev with rf := t.dev.rf, hp := t.dev.hp, ls := t.dev.ls, ou := { s.dev.ou with headCounts := t.dev.ou.headCounts } } ∧
      headCounted s.dev t.dev (fun p' c => if p' = p ∧ c = .fired then 1 else 0) ∧
      t.dev.pipe p r = (s.dev.pipe p r).released (s.dev.head p) s.dev.pc (s.dev.ring p) (s.dev.standing p r) s.dev.now
        (s.dev.printing p r) ∧
      (∀ p' r', (p', r') ≠ (p, r) → t.dev.pipe p' r' = s.dev.pipe p' r') ∧ (∀ p' ≠ p, t.dev.port p' = s.dev.port p') ∧
      ((s.dev.port p).state = .ready → (t.dev.port p).tokens = (s.dev.port p).tokens ++ [.fire r] ∧
        (t.dev.port p).tickleAt = if (s.dev.head p).tickleMs = 0 then none
          else some (s.dev.now + (s.dev.head p).tickleMs * 100000)))

/-- The levels of the inputs, taken at once whatever the RESET pin: a channel whose level differs from its filtered level starts
timing, one that returns to it stops; an active edge of PDI starts qualification while the qualifier acts, any other change ends it.
Rests on log 4. -/
def Obligations.InputLevelsSampled : Prop :=
  (∀ (s : State) (level : Bool),
    let timed : EncChannel → EncChannel := fun c =>
      if level = c.sampled then c
      else { c with sampled := level, since := if level = c.filtered then none else some s.dev.now }
    exec (.encoderInputChange .a level) s = .next { s with dev := { s.dev with pu := { s.dev.pu with chA := timed s.dev.pu.chA } } } ∧
    exec (.encoderInputChange .b level) s = .next { s with dev := { s.dev with pu := { s.dev.pu with chB := timed s.dev.pu.chB } } }) ∧
  (∀ (s : State) (level : Bool),
    let acts := s.dev.resetPin = false ∧ s.dev.pc.job ≠ .config ∧
      (s.dev.tab.job.source = .pdi ∨ (s.dev.tab.job.source = .pitch ∧ s.dev.pc.bindingMade = false))
    let active := match s.dev.tab.job.polarity with
      | .rising => level = true
      | .falling => level = false
    let result := fun k => Host.Outcome.next (φ := Fault) (ρ := Refusal)
      { s with dev := { s.dev with pc := { s.dev.pc with pdi := level, qualifier := k } } }
    (level = s.dev.pc.pdi ∨ ¬ acts → exec (.pdiLevelChange level) s = result s.dev.pc.qualifier) ∧
    (level ≠ s.dev.pc.pdi → acts → s.dev.pc.qualifier ≠ none → exec (.pdiLevelChange level) s = result none) ∧
    (level ≠ s.dev.pc.pdi → acts → s.dev.pc.qualifier = none → active →
      exec (.pdiLevelChange level) s = result (some (s.dev.now + s.dev.tab.job.qualify * 100))) ∧
    (level ≠ s.dev.pc.pdi → acts → s.dev.pc.qualifier = none → ¬ active → exec (.pdiLevelChange level) s = result none))

/-! ### The head lanes -/

/-- At a symbol boundary the arbiter sends the oldest token, else the next symbol of the frame in progress, else it starts the frame of
the first waiting row after the row served last in the circle of rows, else idle fill. Rests on log 23. -/
def Obligations.LaneArbiterChooses : Prop :=
  ∀ (s : State) (p : PortIx), s.dev.working →
    let hp := s.dev.port p
    let becomes := fun k : HeadPort => exec (.symbolBoundary p) s = .next { s with dev := { s.dev with hp := vset s.dev.hp p k } }
    (∀ r, hp.current ≠ .token (.fire r)) → (∀ x r st, hp.current = .frame x → hp.progress ≠ some { row := r, stale := st, left := [] }) →
    (∀ t ts, hp.tokens = t :: ts → becomes { hp with current := .token t, tokens := ts }) ∧
    (∀ r st x xs, hp.tokens = [] → hp.progress = some { row := r, stale := st, left := x :: xs } →
      becomes { hp with current := .frame x, progress := some { row := r, stale := st, left := xs } }) ∧
    (∀ f x xs, hp.tokens = [] → hp.progress = none → f ∈ hp.frames → f.left = x :: xs →
      (∀ k ∈ hp.frames, k ≠ f → k.row ≠ f.row ∧ ¬ (k.row - hp.lastRow - 1).val < (f.row - hp.lastRow - 1).val) →
      becomes { hp with current := .frame x, progress := some { f with left := xs }, frames := hp.frames.erase f, lastRow := f.row }) ∧
    (hp.tokens = [] → hp.progress = none → hp.frames = [] → becomes { hp with current := .idle })

/-- A frame's last symbol has gone: a line ahead of the row becomes LOADED; a line the row has reached, and the frame of an ended
job, raise DISCARD, the former with the latch CLEAR and a staged line handed over; then the arbiter chooses. The frame of an ended job
raises nothing where its row is no longer enabled. A line handed over becomes a frame with the codes that the test mode and keep-wet
give. Rests on logs 22, 23, 25, 27 and 41. -/
def Obligations.FrameSentReports : Prop :=
  (∀ (hp : HeadPort) (h : HeadDescr) (r : RowIx) (t : Pos) (codes : Option (List Nat)), rising hp.ages = true → 1 ≤ h.rowCount →
    hp.took h r t codes (hp.takeFrame h r t codes)) ∧
  ∀ (s : State) (p : PortIx) (f : Frame), s.dev.working → (s.dev.port p).state = .ready → (s.dev.port p).progress = some f →
    (s.dev.port p).frameCanEnd = true →
    let hp : HeadPort := { s.dev.port p with progress := none }
    let discarding : HeadPort := { hp with tokens := hp.tokens ++ [.discard f.row] }
    let q := s.dev.pipe p f.row
    (∀ y, f.stale = false → q.latch = .sending y → ¬ notAhead y (s.dev.standing p f.row) →
      exec (.frameSent p) s = .next { s with dev := { s.dev with
        hp := vset s.dev.hp p hp.choose
        rf := rmod s.dev.rf p f.row (fun q => { q with latch := .loaded y }) } }) ∧
    (f.stale = true → exec (.frameSent p) s = .next { s with dev := { s.dev with
      hp := vset s.dev.hp p (if s.dev.rowEnabled p f.row then discarding else hp).choose } }) ∧
    (∀ y, f.stale = false → q.latch = .sending y → notAhead y (s.dev.standing p f.row) →
      (∀ x codes, q.stage ≠ .staged x codes) →
      exec (.frameSent p) s = .next { s with dev := { s.dev with
        hp := vset s.dev.hp p discarding.choose
        rf := rmod s.dev.rf p f.row (fun q => { q with latch := .clear }) } }) ∧
    (∀ y x codes, f.stale = false → q.latch = .sending y → notAhead y (s.dev.standing p f.row) → q.stage = .staged x codes →
      s.dev.printing p f.row = true →
      ∃ t, exec (.frameSent p) s = .next t ∧ s.dev.sameButRows t.dev ∧ (t.dev.pipe p f.row).latch = .sending x ∧
        t.dev.port p = (discarding.takeFrame (s.dev.head p) f.row x codes).choose) ∧
    (∀ y, f.stale = false → (q.latch = .loaded y ∨ q.latch = .clear) →
      exec (.frameSent p) s = .next { s with dev := { s.dev with hp := vset s.dev.hp p hp.choose } })

/-- A FIRE has gone out on the lane: the silent counter adds one, up to 128; the FIRE that brings it to 128 sets HEAD_SILENT, counts
SILENCES and, with auto-park, parks the port: a READY port leaves READY and its rows are emptied, a load ends, and a LOAD_WAVES with no
load left is answered; then the arbiter chooses. A FIRE that waits behind a symbol within a frame goes out after that symbol.
Rests on logs 23, 40 and 47. -/
def Obligations.FireSentCounts : Prop :=
  ∀ (s : State) (p : PortIx) (r : RowIx), s.dev.working →
    let hp : HeadPort := { s.dev.port p with silent := min 128 ((s.dev.port p).silent + 1) }
    let leaves := (s.dev.head p).autoPark = true ∧ (s.dev.port p).state = .ready
    (∀ rest, (s.dev.port p).inFrame = true → (s.dev.port p).tokens = .fire r :: rest → exec (.fireTokenSent p) s =
      exec (.fireTokenSent p) { s with dev := { s.dev with hp := vset s.dev.hp p (s.dev.port p).choose } }) ∧
    ((s.dev.port p).current = .token (.fire r) → (s.dev.port p).silent ≤ 128 →
      ((s.dev.port p).silent ≠ 127 → exec (.fireTokenSent p) s = .next { s with dev := { s.dev with hp := vset s.dev.hp p hp.choose } }) ∧
      ((s.dev.port p).silent = 127 → ∃ t, exec (.fireTokenSent p) s = .next t ∧ t.pending = s.pending ∧
        t.dev = { s.dev with hp := t.dev.hp, rf := t.dev.rf, ls := t.dev.ls, cp := t.dev.cp, ou := { s.dev.ou with
          headEvents := vmod s.dev.ou.headEvents p (· ||| 32), headCounts := t.dev.ou.headCounts, exec := t.dev.ou.exec } } ∧
        headCounted s.dev t.dev (fun p' c => if p' = p ∧ c = .silences then 1 else 0) ∧
        t.dev.hp = vset s.dev.hp p (hp.parkedBy (s.dev.head p)).choose ∧
        (∀ p' r', t.dev.pipe p' r' = if p' = p ∧ leaves then (s.dev.pipe p' r').emptied else s.dev.pipe p' r') ∧
        (¬ leaves → t.dev.rf = s.dev.rf ∧ t.dev.ls = s.dev.ls) ∧ loadsAnswered s.dev t.dev))

/-- A head's return lane reaches IN_SYNC: a DOWN port enters UNLOADED. It enters LOST: a port in UNLOADED, LOADING, READY or PARKED
enters DOWN with its lane silent and its timers stopped, HEAD_LANE_LOST set and LANE_LOSSES counted, and the rows of a READY port
emptied; a DISABLED or DOWN port only records the loss. The last LOADING port's loss lets LOAD_WAVES be answered.
Rests on logs 24 and 47. -/
def Obligations.HeadLaneSyncFollowed : Prop :=
  ∀ (s : State) (p : PortIx), s.dev.working →
    let hp := s.dev.port p
    (exec (.headReturnLaneSync p) s = .next { s with dev := { s.dev with hp := vset s.dev.hp p { hp with
      sync := .inSync, state := if hp.sync = .lost ∧ hp.state = .down then .unloaded else hp.state } } }) ∧
    (hp.sync = .lost → exec (.headReturnLaneLost p) s = .next s) ∧
    (hp.sync = .inSync → hp.state = .disabled ∨ hp.state = .down →
      exec (.headReturnLaneLost p) s = .next { s with dev := { s.dev with hp := vset s.dev.hp p { hp with sync := .lost } } }) ∧
    (hp.sync = .inSync → hp.state ≠ .disabled → hp.state ≠ .down → ∃ t, exec (.headReturnLaneLost p) s = .next t ∧
      t.pending = s.pending ∧ t.dev.hp = vset s.dev.hp p { hp.silenced .down with sync := .lost } ∧
      t.dev = { s.dev with hp := t.dev.hp, rf := t.dev.rf, ls := t.dev.ls, cp := t.dev.cp, ou := { s.dev.ou with
        headEvents := vmod s.dev.ou.headEvents p (· ||| 16), headCounts := t.dev.ou.headCounts, exec := t.dev.ou.exec } } ∧
      headCounted s.dev t.dev (fun p' c => if p' = p ∧ c = .laneLosses then 1 else 0) ∧
      (∀ p' r, t.dev.pipe p' r = if p' = p ∧ hp.state = .ready then (s.dev.pipe p' r).emptied else s.dev.pipe p' r) ∧
      loadsAnswered s.dev t.dev)

/-- A return message resets the silent counter in UNLOADED, LOADING, READY and PARKED and is not acted on in DISABLED and DOWN; a byte that
begins no such message is ignored. A WAVE_ACK at a LOADING port marks its waveform; the fourth distinct one makes the port READY, with
the silent counter and the ages 0, row 3 served last, the load timer stopped and the idle tickle timer started, and a LOAD_WAVES with no
load left is answered. Rests on log 42. -/
def Obligations.HeadMessagesHeard : Prop :=
  ∀ (s : State) (p : PortIx), s.dev.working →
    let hp := s.dev.port p
    let becomes := fun (c : Instr) (k : HeadPort) => exec c s = .next { s with dev := { s.dev with hp := vset s.dev.hp p k } }
    let ack := fun r : RowIx => Instr.ack p (BitVec.ofNat 8 (0x40 + r.val))
    let waveAck := fun i : Fin 4 => Instr.waveAck p (BitVec.ofNat 8 (0x50 + i.val))
    (∀ byte : Byte, (∀ r : RowIx, byte.toNat ≠ 0x40 + r.val) → exec (.ack p byte) s = .next s) ∧
    (∀ byte : Byte, (∀ i : Fin 4, byte.toNat ≠ 0x50 + i.val) → exec (.waveAck p byte) s = .next s) ∧
    (∀ (first : Byte) (code : Option Byte), first ≠ 0x60 ∨ code = none → exec (.headFault p ⟨first, code⟩) s = .next s) ∧
    (hp.state = .disabled ∨ hp.state = .down →
      (∀ r, exec (ack r) s = .next s) ∧ (∀ i, exec (waveAck i) s = .next s) ∧ ∀ code, exec (.headFault p ⟨0x60, code⟩) s = .next s) ∧
    (hp.state ≠ .disabled → hp.state ≠ .down → ∀ r, becomes (ack r) { hp with silent := 0 }) ∧
    (hp.state = .unloaded ∨ hp.state = .ready ∨ hp.state = .parked → ∀ i, becomes (waveAck i) { hp with silent := 0 }) ∧
    (hp.state = .loading → ∀ i : Fin 4, (∃ k, vget (vset hp.acked i true) k = false) →
      becomes (waveAck i) { hp with silent := 0, acked := vset hp.acked i true }) ∧
    (hp.state = .loading → ∀ i : Fin 4, (∀ k, vget (vset hp.acked i true) k = true) → ∃ t, exec (waveAck i) s = .next t ∧
      t.pending = s.pending ∧ t.dev = { s.dev with hp := t.dev.hp, cp := t.dev.cp, ou := { s.dev.ou with exec := t.dev.ou.exec } } ∧
      t.dev.hp = vset s.dev.hp p { hp with
        state := .ready
        silent := 0
        acked := vset hp.acked i true
        ages := []
        lastRow := 3
        loadAt := none
        tickleAt := if (s.dev.head p).tickleMs = 0 then none else some (s.dev.now + (s.dev.head p).tickleMs * 100000) } ∧
      loadsAnswered s.dev t.dev)

/-- A FAULT that a port hears, and a load timer's expiry at a LOADING port: the fault is recorded, HEAD_FAULT set and FAULTS counted,
the expiry sets HEAD_SILENT and counts SILENCES. With auto-park the port is PARKED, a READY port leaving READY and a load ending; without
it a FAULT leaves the port's state and an expired load leaves it UNLOADED. A load that ends withdraws the waiting WAVEFORM tokens, and a
LOAD_WAVES with no load left is answered. Rests on logs 40, 42 and 47. -/
def Obligations.FaultAndLoadExpiry : Prop :=
  ∀ (s : State) (p : PortIx), s.dev.working →
    let hp := s.dev.port p
    let park := (s.dev.head p).autoPark
    (∀ code : Byte, hp.state ≠ .disabled → hp.state ≠ .down → ∃ t, exec (.headFault p ⟨0x60, some code⟩) s = .next t ∧
      t.pending = s.pending ∧
      t.dev = { s.dev with hp := t.dev.hp, rf := t.dev.rf, ls := t.dev.ls, cp := t.dev.cp, ou := { s.dev.ou with
        headEvents := vmod s.dev.ou.headEvents p (· ||| 64), headCounts := t.dev.ou.headCounts, exec := t.dev.ou.exec } } ∧
      headCounted s.dev t.dev (fun p' c => if p' = p ∧ c = .faults then 1 else 0) ∧
      t.dev.hp = vset s.dev.hp p ({ hp with silent := 0, fault := some code }.parkedBy (s.dev.head p)) ∧
      (∀ p' r, t.dev.pipe p' r = if p' = p ∧ park = true ∧ hp.state = .ready then (s.dev.pipe p' r).emptied else s.dev.pipe p' r) ∧
      loadsAnswered s.dev t.dev) ∧
    (∀ e : Nat, hp.state = .loading → hp.loadAt = some e →
      (s.dev.now < e → exec (.loadTimerExpiry p) s = .next s) ∧
      (e ≤ s.dev.now → ∃ t, exec (.loadTimerExpiry p) s = .next t ∧ t.pending = s.pending ∧
        t.dev = { s.dev with hp := t.dev.hp, cp := t.dev.cp, ou := { s.dev.ou with
          headEvents := vmod s.dev.ou.headEvents p (· ||| 32), headCounts := t.dev.ou.headCounts, exec := t.dev.ou.exec } } ∧
        headCounted s.dev t.dev (fun p' c => if p' = p ∧ c = .silences then 1 else 0) ∧
        t.dev.hp = vset s.dev.hp p (hp.loadEnded (if park then .parked else .unloaded)) ∧ loadsAnswered s.dev t.dev)) ∧
    (hp.state ≠ .loading ∨ hp.loadAt = none → exec (.loadTimerExpiry p) s = .next s)

/-- The idle tickle timer of a READY port expires: TICKLE_ALL is raised, every row's last fire time is now, every age is 0 and the timer
restarts; before the expiry, and in any other state, nothing changes. -/
def Obligations.IdleTickleRaised : Prop :=
  ∀ (s : State) (p : PortIx), s.dev.working →
    let hp := s.dev.port p
    (∀ e, hp.state = .ready → hp.tickleAt = some e → e ≤ s.dev.now → ∃ t, exec (.idleTickleExpiry p) s = .next t ∧
      t = { s with dev := { s.dev with rf := t.dev.rf, hp := vset s.dev.hp p { hp with
        tokens := hp.tokens ++ [.tickleAll]
        ages := []
        tickleAt := if (s.dev.head p).tickleMs = 0 then none else some (s.dev.now + (s.dev.head p).tickleMs * 100000) } } } ∧
      ∀ p' r, t.dev.pipe p' r = if p' = p then { s.dev.pipe p' r with lastFire := s.dev.now } else s.dev.pipe p' r) ∧
    (hp.state ≠ .ready ∨ hp.tickleAt = none ∨ (∃ e ∈ hp.tickleAt, s.dev.now < e) → exec (.idleTickleExpiry p) s = .next s)

/-! ### The landing computation -/

/-- In a stitch zone of width S the right head's share of column k is floor((2k + 1) 256 / 2S), 1 to 255 and rising with k, and the right
head owns the column where the dither entry is below it, the left head elsewhere; in the zone of a LOCAL pair a DEAD or OFF owner passes
it to a head whose nozzle is GOOD or WEAK. A head column in no zone is its head's. The owner keeps its tone code, the other head holds 0,
and no column of a LOCAL pair's zone holds a code other than 0 in both heads. -/
def Obligations.StitchZoneDivides : Prop :=
  (∀ S k : Nat, 1 ≤ S → S ≤ 64 → k < S → share k S = (2 * k + 1) * 256 / (2 * S) ∧ 1 ≤ share k S ∧ share k S ≤ 255 ∧
    (0 < k → share (k - 1) S < share k S)) ∧
  ((List.range 8).map (fun k => share k 8) = [16, 48, 80, 112, 144, 176, 208, 240]) ∧
  (∀ (g : Landing) (k S : Nat), g.rightOwns k S = decide (g.plane.ditherAt (g.copy.hdr.line.toNat % 16) (k % 16) < share k S)) ∧
  (∀ (g : Landing) (p : PortIx) (j : Nat), g.postStitch p j = if g.owns p j then g.toneCode p j else 0) ∧
  (∀ (g : Landing) (p : PortIx) (j : Nat), (leftOverlap g.heads p).toNat ≤ j →
    j + (rightOverlap g.heads p).toNat < (g.head p).nozzles → g.owns p j = true) ∧
  (∀ (g : Landing) (p : PortIx) (k : Nat), (g.head p).left.kind = .remote →
    let S := (leftOverlap g.heads p).toNat
    k < S → g.owns p k = g.rightOwns k S) ∧
  (∀ (g : Landing) (p : PortIx) (k : Nat), (g.head p).right.kind = .remote →
    let S := (rightOverlap g.heads p).toNat
    k < S → (leftOverlap g.heads p).toNat + S ≤ (g.head p).nozzles →
    g.owns p ((g.head p).nozzles - S + k) = !g.rightOwns k S) ∧
  (∀ (g : Landing) (p q : PortIx) (k : Nat), (g.head p).right.kind = .localPort → (g.head p).right.port = q →
    (g.head q).left.kind = .localPort → (g.head q).left.port = p →
    let S := (derivedOverlap (g.head p) (g.head q)).toNat
    let j := (g.head p).nozzles - S + k
    let failing := fun (r : PortIx) (i : Nat) => g.status r i = 2 ∨ g.status r i = 3
    k < S → (leftOverlap g.heads p).toNat + S ≤ (g.head p).nozzles → S ≤ (g.head q).nozzles →
    (g.owns q k = true ↔ if g.rightOwns k S then ¬ (failing q k ∧ ¬ failing p j) else failing p j ∧ ¬ failing q k) ∧
    (g.owns p j = !g.owns q k) ∧ (g.finalCode p j = 0 ∨ g.finalCode q k = 0))

/-- A head column's code is its plane's tone map entry for the tone of its pixel, 15, 5 or 1 times the value by depth. An OFF column
holds 0, gives nothing and receives nothing. A donor is an owned DEAD column with a drop; it holds 0 and gives its code to an owned GOOD
neighbour, on an even line the left one first, on an odd line the right one first, and where neither is such its drop is lost. Every
other column holds its post-stitch code and what it receives, at most 3. -/
def Obligations.CodesFollowToneAndStatus : Prop :=
  (∀ (g : Landing) (p : PortIx) (j depth : Nat), g.copy.hdr.depth.toNat = depth → depth = 1 ∨ depth = 2 ∨ depth = 4 →
    let v := pixel g.copy.body depth ((g.head p).origin + j - g.copy.hdr.firstColumn.toNat)
    v < 2 ^ depth ∧ g.toneCode p j = g.plane.tone.toList.getD ((if depth = 1 then 15 else if depth = 2 then 5 else 1) * v) 0) ∧
  (∀ v t : Nat, v < 16 → PlaneTable.default.code v = v / 4 ∧ (v < 2 → t = toneOf 1 v → t = 15 * v ∧ PlaneTable.default.code t = 3 * v) ∧
    (v < 4 → t = toneOf 2 v → t = 5 * v ∧ PlaneTable.default.code t = v)) ∧
  (∀ (g : Landing) (p : PortIx),
    let N := (g.head p).nozzles
    let takes : Nat → Prop := fun i => i < N ∧ g.status p i = 0 ∧ g.owns p i = true
    (∀ j, g.donor p j = true ↔ j < N ∧ g.status p j = 2 ∧ g.owns p j = true ∧ 0 < g.postStitch p j) ∧
    (∀ j,
      let left : Prop := 0 < j ∧ takes (j - 1)
      let right : Prop := takes (j + 1)
      let even : Prop := g.copy.hdr.line.toNat % 2 = 0
      (left → even ∨ ¬ right → g.receiver p j = some (j - 1)) ∧ (right → ¬ even ∨ ¬ left → g.receiver p j = some (j + 1)) ∧
      (¬ left → ¬ right → g.receiver p j = none)) ∧
    (∀ j, g.donor p j = true → g.finalCode p j = 0) ∧
    (∀ j, g.status p j ≠ 3 → g.donor p j = false → g.finalCode p j = min 3 (g.postStitch p j +
      (((List.range N).filter (fun i => g.donor p i && g.receiver p i == some j)).map (g.postStitch p)).sum)) ∧
    (∀ j, g.status p j = 3 → g.finalCode p j = 0 ∧ g.donor p j = false ∧ ∀ i, g.receiver p i ≠ some j) ∧
    (∀ j, g.finalCode p j ≤ 3) ∧
    g.lostDrops p = ((List.range N).filter (fun j => g.donor p j && g.receiver p j == none)).length)

/-! ### Encodings -/

/-- Row blocks and frames lose no code: the codes packed four to a byte read back from the bytes; a frame's symbols stand for exactly the
codes compressed, with no run of eight zeros among its single codes and every run of 8 to 263; and its nibbles behind the start read back
as the codes. Every symbol of the forward lane has the nibbles of its form; that the most significant nibble of a WAVEFORM token's byte
goes first is log 43's choice. -/
def Obligations.CodesRoundTrip : Prop :=
  (∀ cs : List Nat, (∀ c ∈ cs, c ≤ 3) → cs.length % 4 = 0 →
    (packCodes cs).flatMap byteCodes = cs ∧ (packCodes cs).length = cs.length / 4) ∧
  (∀ (r : RowIx) (t : Pos) (cs : List Nat), (frameSyms r t cs).head? = some (.start r (t.toNat % 16777216)) ∧
    (frameSyms r t cs).tail.flatMap FrameSym.codes = cs ∧
    (∀ c, FrameSym.zeroRun c ∈ frameSyms r t cs → c ≤ 255) ∧
    ¬ (List.replicate 8 (FrameSym.code 0) <:+: frameSyms r t cs) ∧
    ((∀ c ∈ cs, c ≤ 4) → nibbleCodes ((frameSyms r t cs).tail.flatMap FrameSym.form) = cs)) ∧
  LaneSym.idle.form = [0xC] ∧
  (∀ (r : RowIx) (t : Nat), (LaneSym.frame (.start r t)).form =
    [0xD, r.val, t / 1048576 % 16, t / 65536 % 16, t / 4096 % 16, t / 256 % 16, t / 16 % 16, t % 16]) ∧
  (∀ c : Nat, (LaneSym.frame (.code c)).form = [c] ∧ (LaneSym.frame (.zeroRun c)).form = [0xE, c / 16 % 16, c % 16]) ∧
  (∀ r : RowIx, (LaneSym.token (.fire r)).form = [0xF, r.val] ∧ (LaneSym.token (.discard r)).form = [0xF, 4 + r.val]) ∧
  (LaneSym.token .tickleAll).form = [0xF, 8] ∧
  (∀ (i : Fin 4) (segs : Vector Segment 8),
    let level := fun g : Segment => (if g.negative then 128 else 0) + g.magnitude
    (LaneSym.token (.waveform i segs)).form = [0xF, 9, i.val] ++ segs.toList.flatMap (fun g =>
      [level g / 16 % 16, level g % 16, g.duration / 16 % 16, g.duration % 16]) ∧
    (LaneSym.token (.waveform i segs)).form.length = 35) ∧
  ∀ hp : HeadPort, hp.laneNibbles = hp.current.form

/-! ### What every step keeps -/

/-- The memory lists its addresses strictly rising, and so do the sparse tables and the ages, after every step. -/
def Obligations.MapsStayCanonical : Prop :=
  ∀ s t : State, s.dev.mapsRise → step s = .next t → t.dev.mapsRise

/-- The chain ID stays 0 to 15, the phase below a line, the debt at most 16 lines, R at most 65,536, fine offsets at most 255 and silent
counters at most 128. -/
def Obligations.RegistersStayInRange : Prop :=
  ∀ s t : State, s.dev.chainIdLegal ∧ s.dev.webInRange ∧ s.dev.silentInRange → step s = .next t →
    t.dev.chainIdLegal ∧ t.dev.webInRange ∧ t.dev.silentInRange

/-- No queue, buffer or ring outgrows its places: orders 4, replies 4, the return buffer 8, the page queue 16, the Intake Buffer 262,144
bytes, row fetches 64, landing writes 16, every ring its capacity; and both arbiters have chosen after every step. -/
def Obligations.QueuesNeverOverflow : Prop :=
  ∀ s t : State, s.dev.queuesFit ∧ s.dev.ringsFit ∧ s.dev.intakeFits ∧ s.dev.writesFit ∧ s.dev.fetchesFit ∧ s.dev.settled →
    step s = .next t →
    t.dev.queuesFit ∧ t.dev.ringsFit ∧ t.dev.intakeFits ∧ t.dev.writesFit ∧ t.dev.fetchesFit ∧ t.dev.settled

/-- The rows that are not printing, not enabled or of a port that is not READY, hold nothing. The case of a WRITE of the row count rests
on log 41. Rests on log 41. -/
def Obligations.PassingRowsStayAtRest : Prop :=
  ∀ s t : State, s.dev.passingAtRest → step s = .next t → t.dev.passingAtRest
end

