-- ==== Sys2Proof/Laws/Banks.lean ====
section
/-! SUPPORT. Banks, sparse maps and the memory: what a read gives after each write, and the canonical form kept. -/

namespace Sys2Proof.Machine

section Banks
variable {α : Type} {n : Nat}

@[simp] theorem vget_vset_same (v : Vector α n) (i : Fin n) (x : α) : vget (vset v i x) i = x := by simp [vget, vset]

theorem vget_vset_ne (v : Vector α n) {i j : Fin n} (h : j ≠ i) (x : α) : vget (vset v i x) j = vget v j := by
  have h' : (i : Nat) ≠ (j : Nat) := fun e => h (Fin.ext e.symm)
  simp [vget, vset, h']

/-- A read of a bank after one entry was replaced. -/
theorem vget_vset (v : Vector α n) (i j : Fin n) (x : α) : vget (vset v i x) j = if j = i then x else vget v j := by
  by_cases h : j = i
  · subst h; simp
  · simp [h, vget_vset_ne]

/-- A read of a bank after one entry was changed. -/
theorem vget_vmod (v : Vector α n) (i j : Fin n) (f : α → α) :
    vget (vmod v i f) j = if j = i then f (vget v j) else vget v j := by
  unfold vmod
  rw [vget_vset]
  by_cases h : j = i
  · subst h; simp
  · simp [h]

@[simp] theorem vget_vmap (v : Vector α n) (i : Fin n) (f : α → α) : vget (vmap f v) i = f (vget v i) := by
  simp [vget, vmap, Vector.toList]

@[simp] theorem vget_replicate (x : α) (i : Fin n) : vget (Vector.replicate n x) i = x := by simp [vget]

@[simp] theorem vget_ofFn (f : Fin n → α) (i : Fin n) : vget (Vector.ofFn f) i = f i := by simp [vget]

theorem vget_ext {v w : Vector α n} (h : ∀ i, vget v i = vget w i) : v = w :=
  Vector.ext fun i hi => h ⟨i, hi⟩

@[simp] theorem vset_vget (v : Vector α n) (i : Fin n) : vset v i (vget v i) = v := by
  apply vget_ext
  intro j
  rw [vget_vset]
  split
  · next h => rw [h]
  · rfl

end Banks

section Rows
variable {α : Type}

theorem rget_rmod (v : Vector (Vector α 4) 16) (p q : PortIx) (r s : RowIx) (f : α → α) :
    rget (rmod v p r f) q s = if q = p ∧ s = r then f (rget v q s) else rget v q s := by
  unfold rget rmod
  rw [vget_vmod]
  by_cases h : q = p
  · subst h
    simp only [true_and, if_true]
    rw [vget_vmod]
  · simp [h]

@[simp] theorem rget_mapRows (v : Vector (Vector α 4) 16) (p : PortIx) (r : RowIx) (f : α → α) :
    rget (mapRows f v) p r = f (rget v p r) := by simp [rget, mapRows]

theorem rget_vmod (v : Vector (Vector α 4) 16) (p q : PortIx) (s : RowIx) (f : Vector α 4 → Vector α 4) :
    rget (vmod v p f) q s = if q = p then vget (f (vget v q)) s else rget v q s := by
  unfold rget
  rw [vget_vmod]
  split <;> rfl

@[simp] theorem rget_replicate (x : α) (p : PortIx) (r : RowIx) :
    rget (Vector.replicate 16 (Vector.replicate 4 x)) p r = x := by simp [rget]

end Rows

@[simp] theorem mem_allPorts (p : PortIx) : p ∈ allPorts := by revert p; decide

@[simp] theorem mem_allRows (r : RowIx) : r ∈ allRows := by revert r; decide

theorem allPorts_nodup : allPorts.Nodup := by decide

theorem allRows_nodup : allRows.Nodup := by decide

@[simp] theorem mem_allPortRows (p : PortIx) (r : RowIx) : (p, r) ∈ allPortRows := by
  simp [allPortRows, List.mem_flatMap]

/-! ### Sparse maps -/

section Sparse
variable {α : Type}

theorem lookup_insertKey (k j : Nat) (x : α) (m : List (Nat × α)) :
    lookup j (insertKey k x m) = if j = k then some x else lookup j m := by
  induction m with
  | nil =>
    by_cases h : j = k
    · simp [insertKey, lookup, h]
    · simp [insertKey, lookup, h, Ne.symm h]
  | cons y m ih =>
    obtain ⟨a, y⟩ := y
    unfold insertKey
    split
    · by_cases h : j = k
      · subst h; simp [lookup]
      · simp [lookup, h, Ne.symm h]
    · split
      · next h1 h2 =>
        subst h2
        by_cases h : j = k
        · subst h; simp [lookup]
        · simp [lookup, h, Ne.symm h]
      · next h1 h2 =>
        simp only [lookup, ih]
        by_cases h : a = j
        · subst h
          simp [Ne.symm h2]
        · simp [h]

theorem risingFrom_insertKey (k : Nat) (x : α) (low : Option Nat) (m : List (Nat × α)) (h : risingFrom low m = true)
    (hk : low.all (· < k) = true) : risingFrom low (insertKey k x m) = true := by
  induction m generalizing low with
  | nil => simpa [insertKey, risingFrom] using hk
  | cons y m ih =>
    obtain ⟨a, y⟩ := y
    simp only [risingFrom, Bool.and_eq_true] at h
    unfold insertKey
    split
    · next h1 => simp [risingFrom, hk, h1, h.2]
    · split
      · next h1 h2 => subst h2; simp [risingFrom, hk, h.2]
      · next h1 h2 =>
        simp only [risingFrom, Bool.and_eq_true]
        refine ⟨h.1, ih _ h.2 ?_⟩
        simp only [Option.all_some, decide_eq_true_eq]
        omega

/-- Storing a byte keeps the canonical form. -/
theorem rising_insertKey (k : Nat) (x : α) (m : List (Nat × α)) (h : rising m = true) : rising (insertKey k x m) = true :=
  risingFrom_insertKey k x none m h rfl

end Sparse

/-! ### The external memory (R81) -/

theorem readByte_insertKey (m : List Host.Cell) (a k : Nat) (b : Byte) :
    readByte (insertKey k b m) a = if a = k then b else readByte m a := by
  unfold readByte
  rw [lookup_insertKey]
  split <;> rfl

/-- Storing bytes keeps the memory's canonical form. -/
theorem Memory.wf_writeBytes (m : List Host.Cell) (a : Nat) (bs : List Byte) (h : Memory.wf m) :
    Memory.wf (writeBytes m a bs) := by
  induction bs generalizing m a with
  | nil => exact h
  | cons b bs ih => exact ih _ _ (rising_insertKey a b m h)

/-- A landing write that a reset abandons keeps the memory's canonical form. -/
theorem Memory.wf_writePartly (use : Nat) (m : List Host.Cell) (a i : Nat) (bs : List Byte) (h : Memory.wf m) :
    Memory.wf (writePartly use m a i bs) := by
  induction bs generalizing m a i with
  | nil => exact h
  | cons b bs ih =>
    unfold writePartly
    split
    · exact ih _ _ _ (rising_insertKey a b m h)
    · exact ih _ _ _ h

/-- A byte outside the stored bytes reads as before; a byte inside reads as stored. -/
theorem readByte_writeBytes (m : List Host.Cell) (a x : Nat) (bs : List Byte) :
    readByte (writeBytes m a bs) x = if h : a ≤ x ∧ x < a + bs.length then bs[x - a]'(by omega) else readByte m x := by
  induction bs generalizing m a with
  | nil =>
    have : ¬(a ≤ x ∧ x < a + ([] : List Byte).length) := by simp only [List.length_nil]; omega
    simp [writeBytes]
  | cons b bs ih =>
    unfold writeBytes
    rw [ih, readByte_insertKey]
    by_cases h1 : x = a
    · subst h1
      simp
    · by_cases h2 : a + 1 ≤ x ∧ x < a + 1 + bs.length
      · have h3 : a ≤ x ∧ x < a + (b :: bs).length := by simp only [List.length_cons]; omega
        rw [dif_pos h2, dif_pos h3]
        have : x - a = (x - (a + 1)) + 1 := by omega
        simp [this]
      · have h3 : ¬(a ≤ x ∧ x < a + (b :: bs).length) := by simp only [List.length_cons]; omega
        rw [dif_neg h2, dif_neg h3, if_neg h1]

/-- A byte outside the slot position of an abandoned landing write reads as before (R98). -/
theorem readByte_writePartly (use : Nat) (m : List Host.Cell) (a i x : Nat) (bs : List Byte) (h : x < a ∨ a + bs.length ≤ x) :
    readByte (writePartly use m a i bs) x = readByte m x := by
  induction bs generalizing m a i with
  | nil => rfl
  | cons b bs ih =>
    simp only [List.length_cons] at h
    unfold writePartly
    rw [ih _ _ _ (by omega)]
    split
    · rw [readByte_insertKey, if_neg (by omega)]
    · rfl

@[simp] theorem length_readBytes (m : List Host.Cell) (a n : Nat) : (readBytes m a n).length = n := by
  induction n generalizing a with
  | zero => rfl
  | succ n ih => simp [readBytes, ih]

end Sys2Proof.Machine
end

