-- ==== Sys2Proof/Laws/State.lean ====
section
/-! SUPPORT. One lemma per field for each shared update of the device: the fields it leaves, so that no later proof unfolds a record update. -/

namespace Sys2Proof.Machine

@[simp] theorem Device.setEvent_resetPin (d : Device) (e : DevEvent) : (d.setEvent e).resetPin = d.resetPin := rfl
@[simp] theorem Device.setEvent_now (d : Device) (e : DevEvent) : (d.setEvent e).now = d.now := rfl
@[simp] theorem Device.setEvent_freeCount (d : Device) (e : DevEvent) : (d.setEvent e).freeCount = d.freeCount := rfl
@[simp] theorem Device.setEvent_mem (d : Device) (e : DevEvent) : (d.setEvent e).mem = d.mem := rfl
@[simp] theorem Device.setEvent_cp (d : Device) (e : DevEvent) : (d.setEvent e).cp = d.cp := rfl
@[simp] theorem Device.setEvent_ib (d : Device) (e : DevEvent) : (d.setEvent e).ib = d.ib := rfl
@[simp] theorem Device.setEvent_tab (d : Device) (e : DevEvent) : (d.setEvent e).tab = d.tab := rfl
@[simp] theorem Device.setEvent_le (d : Device) (e : DevEvent) : (d.setEvent e).le = d.le := rfl
@[simp] theorem Device.setEvent_ls (d : Device) (e : DevEvent) : (d.setEvent e).ls = d.ls := rfl
@[simp] theorem Device.setEvent_pu (d : Device) (e : DevEvent) : (d.setEvent e).pu = d.pu := rfl
@[simp] theorem Device.setEvent_pc (d : Device) (e : DevEvent) : (d.setEvent e).pc = d.pc := rfl
@[simp] theorem Device.setEvent_rf (d : Device) (e : DevEvent) : (d.setEvent e).rf = d.rf := rfl
@[simp] theorem Device.setEvent_hp (d : Device) (e : DevEvent) : (d.setEvent e).hp = d.hp := rfl
@[simp] theorem Device.setEvent_ou_exec (d : Device) (e : DevEvent) : (d.setEvent e).ou.exec = d.ou.exec := rfl
@[simp] theorem Device.setEvent_ou_headEvents (d : Device) (e : DevEvent) : (d.setEvent e).ou.headEvents = d.ou.headEvents := rfl
@[simp] theorem Device.setEvent_ou_devMask (d : Device) (e : DevEvent) : (d.setEvent e).ou.devMask = d.ou.devMask := rfl
@[simp] theorem Device.setEvent_ou_headMasks (d : Device) (e : DevEvent) : (d.setEvent e).ou.headMasks = d.ou.headMasks := rfl
@[simp] theorem Device.setEvent_ou_devCounts (d : Device) (e : DevEvent) : (d.setEvent e).ou.devCounts = d.ou.devCounts := rfl
@[simp] theorem Device.setEvent_ou_headCounts (d : Device) (e : DevEvent) : (d.setEvent e).ou.headCounts = d.ou.headCounts := rfl
@[simp] theorem Device.setEvent_ou_memory (d : Device) (e : DevEvent) : (d.setEvent e).ou.memory = d.ou.memory := rfl

@[simp] theorem Device.setHeadEvent_resetPin (d : Device) (p : PortIx) (e : HeadEvent) : (d.setHeadEvent p e).resetPin = d.resetPin := rfl
@[simp] theorem Device.setHeadEvent_now (d : Device) (p : PortIx) (e : HeadEvent) : (d.setHeadEvent p e).now = d.now := rfl
@[simp] theorem Device.setHeadEvent_freeCount (d : Device) (p : PortIx) (e : HeadEvent) : (d.setHeadEvent p e).freeCount = d.freeCount := rfl
@[simp] theorem Device.setHeadEvent_mem (d : Device) (p : PortIx) (e : HeadEvent) : (d.setHeadEvent p e).mem = d.mem := rfl
@[simp] theorem Device.setHeadEvent_cp (d : Device) (p : PortIx) (e : HeadEvent) : (d.setHeadEvent p e).cp = d.cp := rfl
@[simp] theorem Device.setHeadEvent_ib (d : Device) (p : PortIx) (e : HeadEvent) : (d.setHeadEvent p e).ib = d.ib := rfl
@[simp] theorem Device.setHeadEvent_tab (d : Device) (p : PortIx) (e : HeadEvent) : (d.setHeadEvent p e).tab = d.tab := rfl
@[simp] theorem Device.setHeadEvent_le (d : Device) (p : PortIx) (e : HeadEvent) : (d.setHeadEvent p e).le = d.le := rfl
@[simp] theorem Device.setHeadEvent_ls (d : Device) (p : PortIx) (e : HeadEvent) : (d.setHeadEvent p e).ls = d.ls := rfl
@[simp] theorem Device.setHeadEvent_pu (d : Device) (p : PortIx) (e : HeadEvent) : (d.setHeadEvent p e).pu = d.pu := rfl
@[simp] theorem Device.setHeadEvent_pc (d : Device) (p : PortIx) (e : HeadEvent) : (d.setHeadEvent p e).pc = d.pc := rfl
@[simp] theorem Device.setHeadEvent_rf (d : Device) (p : PortIx) (e : HeadEvent) : (d.setHeadEvent p e).rf = d.rf := rfl
@[simp] theorem Device.setHeadEvent_hp (d : Device) (p : PortIx) (e : HeadEvent) : (d.setHeadEvent p e).hp = d.hp := rfl
@[simp] theorem Device.setHeadEvent_ou_exec (d : Device) (p : PortIx) (e : HeadEvent) : (d.setHeadEvent p e).ou.exec = d.ou.exec := rfl
@[simp] theorem Device.setHeadEvent_ou_devEvents (d : Device) (p : PortIx) (e : HeadEvent) : (d.setHeadEvent p e).ou.devEvents = d.ou.devEvents := rfl
@[simp] theorem Device.setHeadEvent_ou_devMask (d : Device) (p : PortIx) (e : HeadEvent) : (d.setHeadEvent p e).ou.devMask = d.ou.devMask := rfl
@[simp] theorem Device.setHeadEvent_ou_headMasks (d : Device) (p : PortIx) (e : HeadEvent) : (d.setHeadEvent p e).ou.headMasks = d.ou.headMasks := rfl
@[simp] theorem Device.setHeadEvent_ou_devCounts (d : Device) (p : PortIx) (e : HeadEvent) : (d.setHeadEvent p e).ou.devCounts = d.ou.devCounts := rfl
@[simp] theorem Device.setHeadEvent_ou_headCounts (d : Device) (p : PortIx) (e : HeadEvent) : (d.setHeadEvent p e).ou.headCounts = d.ou.headCounts := rfl
@[simp] theorem Device.setHeadEvent_ou_memory (d : Device) (p : PortIx) (e : HeadEvent) : (d.setHeadEvent p e).ou.memory = d.ou.memory := rfl

@[simp] theorem Device.count_resetPin (d : Device) (c : DevCounter) (n : Nat) : (d.count c n).resetPin = d.resetPin := rfl
@[simp] theorem Device.count_now (d : Device) (c : DevCounter) (n : Nat) : (d.count c n).now = d.now := rfl
@[simp] theorem Device.count_freeCount (d : Device) (c : DevCounter) (n : Nat) : (d.count c n).freeCount = d.freeCount := rfl
@[simp] theorem Device.count_mem (d : Device) (c : DevCounter) (n : Nat) : (d.count c n).mem = d.mem := rfl
@[simp] theorem Device.count_cp (d : Device) (c : DevCounter) (n : Nat) : (d.count c n).cp = d.cp := rfl
@[simp] theorem Device.count_ib (d : Device) (c : DevCounter) (n : Nat) : (d.count c n).ib = d.ib := rfl
@[simp] theorem Device.count_tab (d : Device) (c : DevCounter) (n : Nat) : (d.count c n).tab = d.tab := rfl
@[simp] theorem Device.count_le (d : Device) (c : DevCounter) (n : Nat) : (d.count c n).le = d.le := rfl
@[simp] theorem Device.count_ls (d : Device) (c : DevCounter) (n : Nat) : (d.count c n).ls = d.ls := rfl
@[simp] theorem Device.count_pu (d : Device) (c : DevCounter) (n : Nat) : (d.count c n).pu = d.pu := rfl
@[simp] theorem Device.count_pc (d : Device) (c : DevCounter) (n : Nat) : (d.count c n).pc = d.pc := rfl
@[simp] theorem Device.count_rf (d : Device) (c : DevCounter) (n : Nat) : (d.count c n).rf = d.rf := rfl
@[simp] theorem Device.count_hp (d : Device) (c : DevCounter) (n : Nat) : (d.count c n).hp = d.hp := rfl
@[simp] theorem Device.count_ou_exec (d : Device) (c : DevCounter) (n : Nat) : (d.count c n).ou.exec = d.ou.exec := rfl
@[simp] theorem Device.count_ou_devEvents (d : Device) (c : DevCounter) (n : Nat) : (d.count c n).ou.devEvents = d.ou.devEvents := rfl
@[simp] theorem Device.count_ou_headEvents (d : Device) (c : DevCounter) (n : Nat) : (d.count c n).ou.headEvents = d.ou.headEvents := rfl
@[simp] theorem Device.count_ou_devMask (d : Device) (c : DevCounter) (n : Nat) : (d.count c n).ou.devMask = d.ou.devMask := rfl
@[simp] theorem Device.count_ou_headMasks (d : Device) (c : DevCounter) (n : Nat) : (d.count c n).ou.headMasks = d.ou.headMasks := rfl
@[simp] theorem Device.count_ou_headCounts (d : Device) (c : DevCounter) (n : Nat) : (d.count c n).ou.headCounts = d.ou.headCounts := rfl
@[simp] theorem Device.count_ou_memory (d : Device) (c : DevCounter) (n : Nat) : (d.count c n).ou.memory = d.ou.memory := rfl

@[simp] theorem Device.countHead_resetPin (d : Device) (p : PortIx) (c : HeadCounter) (n : Nat) : (d.countHead p c n).resetPin = d.resetPin := rfl
@[simp] theorem Device.countHead_now (d : Device) (p : PortIx) (c : HeadCounter) (n : Nat) : (d.countHead p c n).now = d.now := rfl
@[simp] theorem Device.countHead_freeCount (d : Device) (p : PortIx) (c : HeadCounter) (n : Nat) : (d.countHead p c n).freeCount = d.freeCount := rfl
@[simp] theorem Device.countHead_mem (d : Device) (p : PortIx) (c : HeadCounter) (n : Nat) : (d.countHead p c n).mem = d.mem := rfl
@[simp] theorem Device.countHead_cp (d : Device) (p : PortIx) (c : HeadCounter) (n : Nat) : (d.countHead p c n).cp = d.cp := rfl
@[simp] theorem Device.countHead_ib (d : Device) (p : PortIx) (c : HeadCounter) (n : Nat) : (d.countHead p c n).ib = d.ib := rfl
@[simp] theorem Device.countHead_tab (d : Device) (p : PortIx) (c : HeadCounter) (n : Nat) : (d.countHead p c n).tab = d.tab := rfl
@[simp] theorem Device.countHead_le (d : Device) (p : PortIx) (c : HeadCounter) (n : Nat) : (d.countHead p c n).le = d.le := rfl
@[simp] theorem Device.countHead_ls (d : Device) (p : PortIx) (c : HeadCounter) (n : Nat) : (d.countHead p c n).ls = d.ls := rfl
@[simp] theorem Device.countHead_pu (d : Device) (p : PortIx) (c : HeadCounter) (n : Nat) : (d.countHead p c n).pu = d.pu := rfl
@[simp] theorem Device.countHead_pc (d : Device) (p : PortIx) (c : HeadCounter) (n : Nat) : (d.countHead p c n).pc = d.pc := rfl
@[simp] theorem Device.countHead_rf (d : Device) (p : PortIx) (c : HeadCounter) (n : Nat) : (d.countHead p c n).rf = d.rf := rfl
@[simp] theorem Device.countHead_hp (d : Device) (p : PortIx) (c : HeadCounter) (n : Nat) : (d.countHead p c n).hp = d.hp := rfl
@[simp] theorem Device.countHead_ou_exec (d : Device) (p : PortIx) (c : HeadCounter) (n : Nat) : (d.countHead p c n).ou.exec = d.ou.exec := rfl
@[simp] theorem Device.countHead_ou_devEvents (d : Device) (p : PortIx) (c : HeadCounter) (n : Nat) : (d.countHead p c n).ou.devEvents = d.ou.devEvents := rfl
@[simp] theorem Device.countHead_ou_headEvents (d : Device) (p : PortIx) (c : HeadCounter) (n : Nat) : (d.countHead p c n).ou.headEvents = d.ou.headEvents := rfl
@[simp] theorem Device.countHead_ou_devMask (d : Device) (p : PortIx) (c : HeadCounter) (n : Nat) : (d.countHead p c n).ou.devMask = d.ou.devMask := rfl
@[simp] theorem Device.countHead_ou_headMasks (d : Device) (p : PortIx) (c : HeadCounter) (n : Nat) : (d.countHead p c n).ou.headMasks = d.ou.headMasks := rfl
@[simp] theorem Device.countHead_ou_devCounts (d : Device) (p : PortIx) (c : HeadCounter) (n : Nat) : (d.countHead p c n).ou.devCounts = d.ou.devCounts := rfl
@[simp] theorem Device.countHead_ou_memory (d : Device) (p : PortIx) (c : HeadCounter) (n : Nat) : (d.countHead p c n).ou.memory = d.ou.memory := rfl

@[simp] theorem Device.clamped_resetPin (d : Device) : (d.clamped).resetPin = d.resetPin := rfl
@[simp] theorem Device.clamped_now (d : Device) : (d.clamped).now = d.now := rfl
@[simp] theorem Device.clamped_freeCount (d : Device) : (d.clamped).freeCount = d.freeCount := rfl
@[simp] theorem Device.clamped_mem (d : Device) : (d.clamped).mem = d.mem := rfl
@[simp] theorem Device.clamped_cp (d : Device) : (d.clamped).cp = d.cp := rfl
@[simp] theorem Device.clamped_ib (d : Device) : (d.clamped).ib = d.ib := rfl
@[simp] theorem Device.clamped_tab (d : Device) : (d.clamped).tab = d.tab := rfl
@[simp] theorem Device.clamped_le (d : Device) : (d.clamped).le = d.le := rfl
@[simp] theorem Device.clamped_ls (d : Device) : (d.clamped).ls = d.ls := rfl
@[simp] theorem Device.clamped_pu (d : Device) : (d.clamped).pu = d.pu := rfl
@[simp] theorem Device.clamped_pc (d : Device) : (d.clamped).pc = d.pc := rfl
@[simp] theorem Device.clamped_rf (d : Device) : (d.clamped).rf = d.rf := rfl
@[simp] theorem Device.clamped_hp (d : Device) : (d.clamped).hp = d.hp := rfl
@[simp] theorem Device.clamped_ou_exec (d : Device) : (d.clamped).ou.exec = d.ou.exec := rfl
@[simp] theorem Device.clamped_ou_headEvents (d : Device) : (d.clamped).ou.headEvents = d.ou.headEvents := rfl
@[simp] theorem Device.clamped_ou_devMask (d : Device) : (d.clamped).ou.devMask = d.ou.devMask := rfl
@[simp] theorem Device.clamped_ou_headMasks (d : Device) : (d.clamped).ou.headMasks = d.ou.headMasks := rfl
@[simp] theorem Device.clamped_ou_headCounts (d : Device) : (d.clamped).ou.headCounts = d.ou.headCounts := rfl
@[simp] theorem Device.clamped_ou_memory (d : Device) : (d.clamped).ou.memory = d.ou.memory := rfl

@[simp] theorem Device.modPort_resetPin (d : Device) (p : PortIx) (f : HeadPort → HeadPort) : (d.modPort p f).resetPin = d.resetPin := rfl
@[simp] theorem Device.modPort_now (d : Device) (p : PortIx) (f : HeadPort → HeadPort) : (d.modPort p f).now = d.now := rfl
@[simp] theorem Device.modPort_freeCount (d : Device) (p : PortIx) (f : HeadPort → HeadPort) : (d.modPort p f).freeCount = d.freeCount := rfl
@[simp] theorem Device.modPort_mem (d : Device) (p : PortIx) (f : HeadPort → HeadPort) : (d.modPort p f).mem = d.mem := rfl
@[simp] theorem Device.modPort_cp (d : Device) (p : PortIx) (f : HeadPort → HeadPort) : (d.modPort p f).cp = d.cp := rfl
@[simp] theorem Device.modPort_ib (d : Device) (p : PortIx) (f : HeadPort → HeadPort) : (d.modPort p f).ib = d.ib := rfl
@[simp] theorem Device.modPort_ou (d : Device) (p : PortIx) (f : HeadPort → HeadPort) : (d.modPort p f).ou = d.ou := rfl
@[simp] theorem Device.modPort_tab (d : Device) (p : PortIx) (f : HeadPort → HeadPort) : (d.modPort p f).tab = d.tab := rfl
@[simp] theorem Device.modPort_le (d : Device) (p : PortIx) (f : HeadPort → HeadPort) : (d.modPort p f).le = d.le := rfl
@[simp] theorem Device.modPort_ls (d : Device) (p : PortIx) (f : HeadPort → HeadPort) : (d.modPort p f).ls = d.ls := rfl
@[simp] theorem Device.modPort_pu (d : Device) (p : PortIx) (f : HeadPort → HeadPort) : (d.modPort p f).pu = d.pu := rfl
@[simp] theorem Device.modPort_pc (d : Device) (p : PortIx) (f : HeadPort → HeadPort) : (d.modPort p f).pc = d.pc := rfl
@[simp] theorem Device.modPort_rf (d : Device) (p : PortIx) (f : HeadPort → HeadPort) : (d.modPort p f).rf = d.rf := rfl

@[simp] theorem Device.modPipe_resetPin (d : Device) (p : PortIx) (r : RowIx) (f : Pipeline → Pipeline) : (d.modPipe p r f).resetPin = d.resetPin := rfl
@[simp] theorem Device.modPipe_now (d : Device) (p : PortIx) (r : RowIx) (f : Pipeline → Pipeline) : (d.modPipe p r f).now = d.now := rfl
@[simp] theorem Device.modPipe_freeCount (d : Device) (p : PortIx) (r : RowIx) (f : Pipeline → Pipeline) : (d.modPipe p r f).freeCount = d.freeCount := rfl
@[simp] theorem Device.modPipe_mem (d : Device) (p : PortIx) (r : RowIx) (f : Pipeline → Pipeline) : (d.modPipe p r f).mem = d.mem := rfl
@[simp] theorem Device.modPipe_cp (d : Device) (p : PortIx) (r : RowIx) (f : Pipeline → Pipeline) : (d.modPipe p r f).cp = d.cp := rfl
@[simp] theorem Device.modPipe_ib (d : Device) (p : PortIx) (r : RowIx) (f : Pipeline → Pipeline) : (d.modPipe p r f).ib = d.ib := rfl
@[simp] theorem Device.modPipe_ou (d : Device) (p : PortIx) (r : RowIx) (f : Pipeline → Pipeline) : (d.modPipe p r f).ou = d.ou := rfl
@[simp] theorem Device.modPipe_tab (d : Device) (p : PortIx) (r : RowIx) (f : Pipeline → Pipeline) : (d.modPipe p r f).tab = d.tab := rfl
@[simp] theorem Device.modPipe_le (d : Device) (p : PortIx) (r : RowIx) (f : Pipeline → Pipeline) : (d.modPipe p r f).le = d.le := rfl
@[simp] theorem Device.modPipe_ls (d : Device) (p : PortIx) (r : RowIx) (f : Pipeline → Pipeline) : (d.modPipe p r f).ls = d.ls := rfl
@[simp] theorem Device.modPipe_pu (d : Device) (p : PortIx) (r : RowIx) (f : Pipeline → Pipeline) : (d.modPipe p r f).pu = d.pu := rfl
@[simp] theorem Device.modPipe_pc (d : Device) (p : PortIx) (r : RowIx) (f : Pipeline → Pipeline) : (d.modPipe p r f).pc = d.pc := rfl
@[simp] theorem Device.modPipe_hp (d : Device) (p : PortIx) (r : RowIx) (f : Pipeline → Pipeline) : (d.modPipe p r f).hp = d.hp := rfl

@[simp] theorem Device.modRowPos_resetPin (d : Device) (p : PortIx) (r : RowIx) (f : RowPosition → RowPosition) : (d.modRowPos p r f).resetPin = d.resetPin := rfl
@[simp] theorem Device.modRowPos_now (d : Device) (p : PortIx) (r : RowIx) (f : RowPosition → RowPosition) : (d.modRowPos p r f).now = d.now := rfl
@[simp] theorem Device.modRowPos_freeCount (d : Device) (p : PortIx) (r : RowIx) (f : RowPosition → RowPosition) : (d.modRowPos p r f).freeCount = d.freeCount := rfl
@[simp] theorem Device.modRowPos_mem (d : Device) (p : PortIx) (r : RowIx) (f : RowPosition → RowPosition) : (d.modRowPos p r f).mem = d.mem := rfl
@[simp] theorem Device.modRowPos_cp (d : Device) (p : PortIx) (r : RowIx) (f : RowPosition → RowPosition) : (d.modRowPos p r f).cp = d.cp := rfl
@[simp] theorem Device.modRowPos_ib (d : Device) (p : PortIx) (r : RowIx) (f : RowPosition → RowPosition) : (d.modRowPos p r f).ib = d.ib := rfl
@[simp] theorem Device.modRowPos_ou (d : Device) (p : PortIx) (r : RowIx) (f : RowPosition → RowPosition) : (d.modRowPos p r f).ou = d.ou := rfl
@[simp] theorem Device.modRowPos_tab (d : Device) (p : PortIx) (r : RowIx) (f : RowPosition → RowPosition) : (d.modRowPos p r f).tab = d.tab := rfl
@[simp] theorem Device.modRowPos_le (d : Device) (p : PortIx) (r : RowIx) (f : RowPosition → RowPosition) : (d.modRowPos p r f).le = d.le := rfl
@[simp] theorem Device.modRowPos_ls (d : Device) (p : PortIx) (r : RowIx) (f : RowPosition → RowPosition) : (d.modRowPos p r f).ls = d.ls := rfl
@[simp] theorem Device.modRowPos_pc (d : Device) (p : PortIx) (r : RowIx) (f : RowPosition → RowPosition) : (d.modRowPos p r f).pc = d.pc := rfl
@[simp] theorem Device.modRowPos_rf (d : Device) (p : PortIx) (r : RowIx) (f : RowPosition → RowPosition) : (d.modRowPos p r f).rf = d.rf := rfl
@[simp] theorem Device.modRowPos_hp (d : Device) (p : PortIx) (r : RowIx) (f : RowPosition → RowPosition) : (d.modRowPos p r f).hp = d.hp := rfl
@[simp] theorem Device.modRowPos_pu_chA (d : Device) (p : PortIx) (r : RowIx) (f : RowPosition → RowPosition) : (d.modRowPos p r f).pu.chA = d.pu.chA := rfl
@[simp] theorem Device.modRowPos_pu_chB (d : Device) (p : PortIx) (r : RowIx) (f : RowPosition → RowPosition) : (d.modRowPos p r f).pu.chB = d.pu.chB := rfl
@[simp] theorem Device.modRowPos_pu_filterOld (d : Device) (p : PortIx) (r : RowIx) (f : RowPosition → RowPosition) : (d.modRowPos p r f).pu.filterOld = d.pu.filterOld := rfl
@[simp] theorem Device.modRowPos_pu_pair (d : Device) (p : PortIx) (r : RowIx) (f : RowPosition → RowPosition) : (d.modRowPos p r f).pu.pair = d.pu.pair := rfl
@[simp] theorem Device.modRowPos_pu_debt (d : Device) (p : PortIx) (r : RowIx) (f : RowPosition → RowPosition) : (d.modRowPos p r f).pu.debt = d.pu.debt := rfl
@[simp] theorem Device.modRowPos_pu_phase (d : Device) (p : PortIx) (r : RowIx) (f : RowPosition → RowPosition) : (d.modRowPos p r f).pu.phase = d.pu.phase := rfl
@[simp] theorem Device.modRowPos_pu_count (d : Device) (p : PortIx) (r : RowIx) (f : RowPosition → RowPosition) : (d.modRowPos p r f).pu.count = d.pu.count := rfl
@[simp] theorem Device.modRowPos_pu_reference (d : Device) (p : PortIx) (r : RowIx) (f : RowPosition → RowPosition) : (d.modRowPos p r f).pu.reference = d.pu.reference := rfl
@[simp] theorem Device.modRowPos_pu_interval (d : Device) (p : PortIx) (r : RowIx) (f : RowPosition → RowPosition) : (d.modRowPos p r f).pu.interval = d.pu.interval := rfl
@[simp] theorem Device.modRowPos_pu_intervalValid (d : Device) (p : PortIx) (r : RowIx) (f : RowPosition → RowPosition) : (d.modRowPos p r f).pu.intervalValid = d.pu.intervalValid := rfl

@[simp] theorem Device.modRing_resetPin (d : Device) (p : PortIx) (f : Ring → Ring) : (d.modRing p f).resetPin = d.resetPin := rfl
@[simp] theorem Device.modRing_now (d : Device) (p : PortIx) (f : Ring → Ring) : (d.modRing p f).now = d.now := rfl
@[simp] theorem Device.modRing_freeCount (d : Device) (p : PortIx) (f : Ring → Ring) : (d.modRing p f).freeCount = d.freeCount := rfl
@[simp] theorem Device.modRing_mem (d : Device) (p : PortIx) (f : Ring → Ring) : (d.modRing p f).mem = d.mem := rfl
@[simp] theorem Device.modRing_cp (d : Device) (p : PortIx) (f : Ring → Ring) : (d.modRing p f).cp = d.cp := rfl
@[simp] theorem Device.modRing_ib (d : Device) (p : PortIx) (f : Ring → Ring) : (d.modRing p f).ib = d.ib := rfl
@[simp] theorem Device.modRing_ou (d : Device) (p : PortIx) (f : Ring → Ring) : (d.modRing p f).ou = d.ou := rfl
@[simp] theorem Device.modRing_tab (d : Device) (p : PortIx) (f : Ring → Ring) : (d.modRing p f).tab = d.tab := rfl
@[simp] theorem Device.modRing_le (d : Device) (p : PortIx) (f : Ring → Ring) : (d.modRing p f).le = d.le := rfl
@[simp] theorem Device.modRing_pu (d : Device) (p : PortIx) (f : Ring → Ring) : (d.modRing p f).pu = d.pu := rfl
@[simp] theorem Device.modRing_pc (d : Device) (p : PortIx) (f : Ring → Ring) : (d.modRing p f).pc = d.pc := rfl
@[simp] theorem Device.modRing_rf (d : Device) (p : PortIx) (f : Ring → Ring) : (d.modRing p f).rf = d.rf := rfl
@[simp] theorem Device.modRing_hp (d : Device) (p : PortIx) (f : Ring → Ring) : (d.modRing p f).hp = d.hp := rfl
@[simp] theorem Device.modRing_ls_fetchQ (d : Device) (p : PortIx) (f : Ring → Ring) : (d.modRing p f).ls.fetchQ = d.ls.fetchQ := rfl
@[simp] theorem Device.modRing_ls_fetchRaised (d : Device) (p : PortIx) (f : Ring → Ring) : (d.modRing p f).ls.fetchRaised = d.ls.fetchRaised := rfl
@[simp] theorem Device.modRing_ls_writeQ (d : Device) (p : PortIx) (f : Ring → Ring) : (d.modRing p f).ls.writeQ = d.ls.writeQ := rfl
@[simp] theorem Device.modRing_ls_window (d : Device) (p : PortIx) (f : Ring → Ring) : (d.modRing p f).ls.window = d.ls.window := rfl
@[simp] theorem Device.modRing_ls_service (d : Device) (p : PortIx) (f : Ring → Ring) : (d.modRing p f).ls.service = d.ls.service := rfl

@[simp] theorem Device.modRings_resetPin (d : Device) (f : Ring → Ring) : (d.modRings f).resetPin = d.resetPin := rfl
@[simp] theorem Device.modRings_now (d : Device) (f : Ring → Ring) : (d.modRings f).now = d.now := rfl
@[simp] theorem Device.modRings_freeCount (d : Device) (f : Ring → Ring) : (d.modRings f).freeCount = d.freeCount := rfl
@[simp] theorem Device.modRings_mem (d : Device) (f : Ring → Ring) : (d.modRings f).mem = d.mem := rfl
@[simp] theorem Device.modRings_cp (d : Device) (f : Ring → Ring) : (d.modRings f).cp = d.cp := rfl
@[simp] theorem Device.modRings_ib (d : Device) (f : Ring → Ring) : (d.modRings f).ib = d.ib := rfl
@[simp] theorem Device.modRings_ou (d : Device) (f : Ring → Ring) : (d.modRings f).ou = d.ou := rfl
@[simp] theorem Device.modRings_tab (d : Device) (f : Ring → Ring) : (d.modRings f).tab = d.tab := rfl
@[simp] theorem Device.modRings_le (d : Device) (f : Ring → Ring) : (d.modRings f).le = d.le := rfl
@[simp] theorem Device.modRings_pu (d : Device) (f : Ring → Ring) : (d.modRings f).pu = d.pu := rfl
@[simp] theorem Device.modRings_pc (d : Device) (f : Ring → Ring) : (d.modRings f).pc = d.pc := rfl
@[simp] theorem Device.modRings_rf (d : Device) (f : Ring → Ring) : (d.modRings f).rf = d.rf := rfl
@[simp] theorem Device.modRings_hp (d : Device) (f : Ring → Ring) : (d.modRings f).hp = d.hp := rfl
@[simp] theorem Device.modRings_ls_fetchQ (d : Device) (f : Ring → Ring) : (d.modRings f).ls.fetchQ = d.ls.fetchQ := rfl
@[simp] theorem Device.modRings_ls_fetchRaised (d : Device) (f : Ring → Ring) : (d.modRings f).ls.fetchRaised = d.ls.fetchRaised := rfl
@[simp] theorem Device.modRings_ls_writeQ (d : Device) (f : Ring → Ring) : (d.modRings f).ls.writeQ = d.ls.writeQ := rfl
@[simp] theorem Device.modRings_ls_window (d : Device) (f : Ring → Ring) : (d.modRings f).ls.window = d.ls.window := rfl
@[simp] theorem Device.modRings_ls_service (d : Device) (f : Ring → Ring) : (d.modRings f).ls.service = d.ls.service := rfl

@[simp] theorem Device.doneNotice_resetPin (d : Device) (p : PortIx) (r : RowIx) (pl : PageLine) : (d.doneNotice p r pl).resetPin = d.resetPin := rfl
@[simp] theorem Device.doneNotice_now (d : Device) (p : PortIx) (r : RowIx) (pl : PageLine) : (d.doneNotice p r pl).now = d.now := rfl
@[simp] theorem Device.doneNotice_freeCount (d : Device) (p : PortIx) (r : RowIx) (pl : PageLine) : (d.doneNotice p r pl).freeCount = d.freeCount := rfl
@[simp] theorem Device.doneNotice_mem (d : Device) (p : PortIx) (r : RowIx) (pl : PageLine) : (d.doneNotice p r pl).mem = d.mem := rfl
@[simp] theorem Device.doneNotice_cp (d : Device) (p : PortIx) (r : RowIx) (pl : PageLine) : (d.doneNotice p r pl).cp = d.cp := rfl
@[simp] theorem Device.doneNotice_ib (d : Device) (p : PortIx) (r : RowIx) (pl : PageLine) : (d.doneNotice p r pl).ib = d.ib := rfl
@[simp] theorem Device.doneNotice_ou (d : Device) (p : PortIx) (r : RowIx) (pl : PageLine) : (d.doneNotice p r pl).ou = d.ou := rfl
@[simp] theorem Device.doneNotice_tab (d : Device) (p : PortIx) (r : RowIx) (pl : PageLine) : (d.doneNotice p r pl).tab = d.tab := rfl
@[simp] theorem Device.doneNotice_le (d : Device) (p : PortIx) (r : RowIx) (pl : PageLine) : (d.doneNotice p r pl).le = d.le := rfl
@[simp] theorem Device.doneNotice_pu (d : Device) (p : PortIx) (r : RowIx) (pl : PageLine) : (d.doneNotice p r pl).pu = d.pu := rfl
@[simp] theorem Device.doneNotice_pc (d : Device) (p : PortIx) (r : RowIx) (pl : PageLine) : (d.doneNotice p r pl).pc = d.pc := rfl
@[simp] theorem Device.doneNotice_rf (d : Device) (p : PortIx) (r : RowIx) (pl : PageLine) : (d.doneNotice p r pl).rf = d.rf := rfl
@[simp] theorem Device.doneNotice_hp (d : Device) (p : PortIx) (r : RowIx) (pl : PageLine) : (d.doneNotice p r pl).hp = d.hp := rfl
@[simp] theorem Device.doneNotice_ls_fetchQ (d : Device) (p : PortIx) (r : RowIx) (pl : PageLine) : (d.doneNotice p r pl).ls.fetchQ = d.ls.fetchQ := rfl
@[simp] theorem Device.doneNotice_ls_fetchRaised (d : Device) (p : PortIx) (r : RowIx) (pl : PageLine) : (d.doneNotice p r pl).ls.fetchRaised = d.ls.fetchRaised := rfl
@[simp] theorem Device.doneNotice_ls_writeQ (d : Device) (p : PortIx) (r : RowIx) (pl : PageLine) : (d.doneNotice p r pl).ls.writeQ = d.ls.writeQ := rfl
@[simp] theorem Device.doneNotice_ls_window (d : Device) (p : PortIx) (r : RowIx) (pl : PageLine) : (d.doneNotice p r pl).ls.window = d.ls.window := rfl
@[simp] theorem Device.doneNotice_ls_service (d : Device) (p : PortIx) (r : RowIx) (pl : PageLine) : (d.doneNotice p r pl).ls.service = d.ls.service := rfl

@[simp] theorem Device.raiseFetch_resetPin (d : Device) (p : PortIx) (r : RowIx) (pl : PageLine) (g : Ring) (i : Nat) : (d.raiseFetch p r pl g i).resetPin = d.resetPin := rfl
@[simp] theorem Device.raiseFetch_now (d : Device) (p : PortIx) (r : RowIx) (pl : PageLine) (g : Ring) (i : Nat) : (d.raiseFetch p r pl g i).now = d.now := rfl
@[simp] theorem Device.raiseFetch_freeCount (d : Device) (p : PortIx) (r : RowIx) (pl : PageLine) (g : Ring) (i : Nat) : (d.raiseFetch p r pl g i).freeCount = d.freeCount := rfl
@[simp] theorem Device.raiseFetch_mem (d : Device) (p : PortIx) (r : RowIx) (pl : PageLine) (g : Ring) (i : Nat) : (d.raiseFetch p r pl g i).mem = d.mem := rfl
@[simp] theorem Device.raiseFetch_cp (d : Device) (p : PortIx) (r : RowIx) (pl : PageLine) (g : Ring) (i : Nat) : (d.raiseFetch p r pl g i).cp = d.cp := rfl
@[simp] theorem Device.raiseFetch_ib (d : Device) (p : PortIx) (r : RowIx) (pl : PageLine) (g : Ring) (i : Nat) : (d.raiseFetch p r pl g i).ib = d.ib := rfl
@[simp] theorem Device.raiseFetch_ou (d : Device) (p : PortIx) (r : RowIx) (pl : PageLine) (g : Ring) (i : Nat) : (d.raiseFetch p r pl g i).ou = d.ou := rfl
@[simp] theorem Device.raiseFetch_tab (d : Device) (p : PortIx) (r : RowIx) (pl : PageLine) (g : Ring) (i : Nat) : (d.raiseFetch p r pl g i).tab = d.tab := rfl
@[simp] theorem Device.raiseFetch_le (d : Device) (p : PortIx) (r : RowIx) (pl : PageLine) (g : Ring) (i : Nat) : (d.raiseFetch p r pl g i).le = d.le := rfl
@[simp] theorem Device.raiseFetch_pu (d : Device) (p : PortIx) (r : RowIx) (pl : PageLine) (g : Ring) (i : Nat) : (d.raiseFetch p r pl g i).pu = d.pu := rfl
@[simp] theorem Device.raiseFetch_pc (d : Device) (p : PortIx) (r : RowIx) (pl : PageLine) (g : Ring) (i : Nat) : (d.raiseFetch p r pl g i).pc = d.pc := rfl
@[simp] theorem Device.raiseFetch_rf (d : Device) (p : PortIx) (r : RowIx) (pl : PageLine) (g : Ring) (i : Nat) : (d.raiseFetch p r pl g i).rf = d.rf := rfl
@[simp] theorem Device.raiseFetch_hp (d : Device) (p : PortIx) (r : RowIx) (pl : PageLine) (g : Ring) (i : Nat) : (d.raiseFetch p r pl g i).hp = d.hp := rfl
@[simp] theorem Device.raiseFetch_ls_rings (d : Device) (p : PortIx) (r : RowIx) (pl : PageLine) (g : Ring) (i : Nat) : (d.raiseFetch p r pl g i).ls.rings = d.ls.rings := rfl
@[simp] theorem Device.raiseFetch_ls_fetchQ (d : Device) (p : PortIx) (r : RowIx) (pl : PageLine) (g : Ring) (i : Nat) : (d.raiseFetch p r pl g i).ls.fetchQ = d.ls.fetchQ := rfl
@[simp] theorem Device.raiseFetch_ls_writeQ (d : Device) (p : PortIx) (r : RowIx) (pl : PageLine) (g : Ring) (i : Nat) : (d.raiseFetch p r pl g i).ls.writeQ = d.ls.writeQ := rfl
@[simp] theorem Device.raiseFetch_ls_window (d : Device) (p : PortIx) (r : RowIx) (pl : PageLine) (g : Ring) (i : Nat) : (d.raiseFetch p r pl g i).ls.window = d.ls.window := rfl
@[simp] theorem Device.raiseFetch_ls_service (d : Device) (p : PortIx) (r : RowIx) (pl : PageLine) (g : Ring) (i : Nat) : (d.raiseFetch p r pl g i).ls.service = d.ls.service := rfl

@[simp] theorem Device.joinFetches_resetPin (d : Device) : (d.joinFetches).resetPin = d.resetPin := rfl
@[simp] theorem Device.joinFetches_now (d : Device) : (d.joinFetches).now = d.now := rfl
@[simp] theorem Device.joinFetches_freeCount (d : Device) : (d.joinFetches).freeCount = d.freeCount := rfl
@[simp] theorem Device.joinFetches_mem (d : Device) : (d.joinFetches).mem = d.mem := rfl
@[simp] theorem Device.joinFetches_cp (d : Device) : (d.joinFetches).cp = d.cp := rfl
@[simp] theorem Device.joinFetches_ib (d : Device) : (d.joinFetches).ib = d.ib := rfl
@[simp] theorem Device.joinFetches_ou (d : Device) : (d.joinFetches).ou = d.ou := rfl
@[simp] theorem Device.joinFetches_tab (d : Device) : (d.joinFetches).tab = d.tab := rfl
@[simp] theorem Device.joinFetches_le (d : Device) : (d.joinFetches).le = d.le := rfl
@[simp] theorem Device.joinFetches_pu (d : Device) : (d.joinFetches).pu = d.pu := rfl
@[simp] theorem Device.joinFetches_pc (d : Device) : (d.joinFetches).pc = d.pc := rfl
@[simp] theorem Device.joinFetches_rf (d : Device) : (d.joinFetches).rf = d.rf := rfl
@[simp] theorem Device.joinFetches_hp (d : Device) : (d.joinFetches).hp = d.hp := rfl
@[simp] theorem Device.joinFetches_ls_rings (d : Device) : (d.joinFetches).ls.rings = d.ls.rings := rfl
@[simp] theorem Device.joinFetches_ls_writeQ (d : Device) : (d.joinFetches).ls.writeQ = d.ls.writeQ := rfl
@[simp] theorem Device.joinFetches_ls_window (d : Device) : (d.joinFetches).ls.window = d.ls.window := rfl
@[simp] theorem Device.joinFetches_ls_service (d : Device) : (d.joinFetches).ls.service = d.ls.service := rfl

@[simp] theorem Device.abandonLanding_resetPin (d : Device) : (d.abandonLanding).resetPin = d.resetPin := rfl
@[simp] theorem Device.abandonLanding_now (d : Device) : (d.abandonLanding).now = d.now := rfl
@[simp] theorem Device.abandonLanding_freeCount (d : Device) : (d.abandonLanding).freeCount = d.freeCount := rfl
@[simp] theorem Device.abandonLanding_mem (d : Device) : (d.abandonLanding).mem = d.mem := rfl
@[simp] theorem Device.abandonLanding_cp (d : Device) : (d.abandonLanding).cp = d.cp := rfl
@[simp] theorem Device.abandonLanding_ib (d : Device) : (d.abandonLanding).ib = d.ib := rfl
@[simp] theorem Device.abandonLanding_ou (d : Device) : (d.abandonLanding).ou = d.ou := rfl
@[simp] theorem Device.abandonLanding_tab (d : Device) : (d.abandonLanding).tab = d.tab := rfl
@[simp] theorem Device.abandonLanding_pu (d : Device) : (d.abandonLanding).pu = d.pu := rfl
@[simp] theorem Device.abandonLanding_pc (d : Device) : (d.abandonLanding).pc = d.pc := rfl
@[simp] theorem Device.abandonLanding_rf (d : Device) : (d.abandonLanding).rf = d.rf := rfl
@[simp] theorem Device.abandonLanding_hp (d : Device) : (d.abandonLanding).hp = d.hp := rfl
@[simp] theorem Device.abandonLanding_ls_rings (d : Device) : (d.abandonLanding).ls.rings = d.ls.rings := rfl
@[simp] theorem Device.abandonLanding_ls_fetchQ (d : Device) : (d.abandonLanding).ls.fetchQ = d.ls.fetchQ := rfl
@[simp] theorem Device.abandonLanding_ls_fetchRaised (d : Device) : (d.abandonLanding).ls.fetchRaised = d.ls.fetchRaised := rfl
@[simp] theorem Device.abandonLanding_ls_window (d : Device) : (d.abandonLanding).ls.window = d.ls.window := rfl

@[simp] theorem Device.flush_resetPin (d : Device) : (d.flush).resetPin = d.resetPin := rfl
@[simp] theorem Device.flush_now (d : Device) : (d.flush).now = d.now := rfl
@[simp] theorem Device.flush_freeCount (d : Device) : (d.flush).freeCount = d.freeCount := rfl
@[simp] theorem Device.flush_mem (d : Device) : (d.flush).mem = d.mem := rfl
@[simp] theorem Device.flush_cp (d : Device) : (d.flush).cp = d.cp := rfl
@[simp] theorem Device.flush_ib (d : Device) : (d.flush).ib = d.ib := rfl
@[simp] theorem Device.flush_ou (d : Device) : (d.flush).ou = d.ou := rfl
@[simp] theorem Device.flush_tab (d : Device) : (d.flush).tab = d.tab := rfl
@[simp] theorem Device.flush_pu (d : Device) : (d.flush).pu = d.pu := rfl
@[simp] theorem Device.flush_pc (d : Device) : (d.flush).pc = d.pc := rfl
@[simp] theorem Device.flush_rf (d : Device) : (d.flush).rf = d.rf := rfl
@[simp] theorem Device.flush_hp (d : Device) : (d.flush).hp = d.hp := rfl
@[simp] theorem Device.flush_ls_window (d : Device) : (d.flush).ls.window = d.ls.window := rfl

@[simp] theorem Device.pushReply_resetPin (d : Device) (h : OrderHeader) (st : Status) (b : List Word) (x : Bool) : (d.pushReply h st b x).resetPin = d.resetPin := rfl
@[simp] theorem Device.pushReply_now (d : Device) (h : OrderHeader) (st : Status) (b : List Word) (x : Bool) : (d.pushReply h st b x).now = d.now := rfl
@[simp] theorem Device.pushReply_freeCount (d : Device) (h : OrderHeader) (st : Status) (b : List Word) (x : Bool) : (d.pushReply h st b x).freeCount = d.freeCount := rfl
@[simp] theorem Device.pushReply_mem (d : Device) (h : OrderHeader) (st : Status) (b : List Word) (x : Bool) : (d.pushReply h st b x).mem = d.mem := rfl
@[simp] theorem Device.pushReply_ib (d : Device) (h : OrderHeader) (st : Status) (b : List Word) (x : Bool) : (d.pushReply h st b x).ib = d.ib := rfl
@[simp] theorem Device.pushReply_ou (d : Device) (h : OrderHeader) (st : Status) (b : List Word) (x : Bool) : (d.pushReply h st b x).ou = d.ou := rfl
@[simp] theorem Device.pushReply_tab (d : Device) (h : OrderHeader) (st : Status) (b : List Word) (x : Bool) : (d.pushReply h st b x).tab = d.tab := rfl
@[simp] theorem Device.pushReply_le (d : Device) (h : OrderHeader) (st : Status) (b : List Word) (x : Bool) : (d.pushReply h st b x).le = d.le := rfl
@[simp] theorem Device.pushReply_ls (d : Device) (h : OrderHeader) (st : Status) (b : List Word) (x : Bool) : (d.pushReply h st b x).ls = d.ls := rfl
@[simp] theorem Device.pushReply_pu (d : Device) (h : OrderHeader) (st : Status) (b : List Word) (x : Bool) : (d.pushReply h st b x).pu = d.pu := rfl
@[simp] theorem Device.pushReply_pc (d : Device) (h : OrderHeader) (st : Status) (b : List Word) (x : Bool) : (d.pushReply h st b x).pc = d.pc := rfl
@[simp] theorem Device.pushReply_rf (d : Device) (h : OrderHeader) (st : Status) (b : List Word) (x : Bool) : (d.pushReply h st b x).rf = d.rf := rfl
@[simp] theorem Device.pushReply_hp (d : Device) (h : OrderHeader) (st : Status) (b : List Word) (x : Bool) : (d.pushReply h st b x).hp = d.hp := rfl
@[simp] theorem Device.pushReply_cp_chainId (d : Device) (h : OrderHeader) (st : Status) (b : List Word) (x : Bool) : (d.pushReply h st b x).cp.chainId = d.cp.chainId := rfl
@[simp] theorem Device.pushReply_cp_downSync (d : Device) (h : OrderHeader) (st : Status) (b : List Word) (x : Bool) : (d.pushReply h st b x).cp.downSync = d.cp.downSync := rfl
@[simp] theorem Device.pushReply_cp_returnSync (d : Device) (h : OrderHeader) (st : Status) (b : List Word) (x : Bool) : (d.pushReply h st b x).cp.returnSync = d.cp.returnSync := rfl
@[simp] theorem Device.pushReply_cp_rx (d : Device) (h : OrderHeader) (st : Status) (b : List Word) (x : Bool) : (d.pushReply h st b x).cp.rx = d.cp.rx := rfl
@[simp] theorem Device.pushReply_cp_orderQ (d : Device) (h : OrderHeader) (st : Status) (b : List Word) (x : Bool) : (d.pushReply h st b x).cp.orderQ = d.cp.orderQ := rfl
@[simp] theorem Device.pushReply_cp_returnRx (d : Device) (h : OrderHeader) (st : Status) (b : List Word) (x : Bool) : (d.pushReply h st b x).cp.returnRx = d.cp.returnRx := rfl
@[simp] theorem Device.pushReply_cp_returnQ (d : Device) (h : OrderHeader) (st : Status) (b : List Word) (x : Bool) : (d.pushReply h st b x).cp.returnQ = d.cp.returnQ := rfl
@[simp] theorem Device.pushReply_cp_upSending (d : Device) (h : OrderHeader) (st : Status) (b : List Word) (x : Bool) : (d.pushReply h st b x).cp.upSending = d.cp.upSending := rfl
@[simp] theorem Device.pushReply_cp_upLast (d : Device) (h : OrderHeader) (st : Status) (b : List Word) (x : Bool) : (d.pushReply h st b x).cp.upLast = d.cp.upLast := rfl
@[simp] theorem Device.pushReply_cp_downOut (d : Device) (h : OrderHeader) (st : Status) (b : List Word) (x : Bool) : (d.pushReply h st b x).cp.downOut = d.cp.downOut := rfl

@[simp] theorem Device.reply_resetPin (d : Device) (h : OrderHeader) (st : Status) (b : List Word) : (d.reply h st b).resetPin = d.resetPin := rfl
@[simp] theorem Device.reply_now (d : Device) (h : OrderHeader) (st : Status) (b : List Word) : (d.reply h st b).now = d.now := rfl
@[simp] theorem Device.reply_freeCount (d : Device) (h : OrderHeader) (st : Status) (b : List Word) : (d.reply h st b).freeCount = d.freeCount := rfl
@[simp] theorem Device.reply_mem (d : Device) (h : OrderHeader) (st : Status) (b : List Word) : (d.reply h st b).mem = d.mem := rfl
@[simp] theorem Device.reply_ib (d : Device) (h : OrderHeader) (st : Status) (b : List Word) : (d.reply h st b).ib = d.ib := rfl
@[simp] theorem Device.reply_ou (d : Device) (h : OrderHeader) (st : Status) (b : List Word) : (d.reply h st b).ou = d.ou := rfl
@[simp] theorem Device.reply_tab (d : Device) (h : OrderHeader) (st : Status) (b : List Word) : (d.reply h st b).tab = d.tab := rfl
@[simp] theorem Device.reply_le (d : Device) (h : OrderHeader) (st : Status) (b : List Word) : (d.reply h st b).le = d.le := rfl
@[simp] theorem Device.reply_ls (d : Device) (h : OrderHeader) (st : Status) (b : List Word) : (d.reply h st b).ls = d.ls := rfl
@[simp] theorem Device.reply_pu (d : Device) (h : OrderHeader) (st : Status) (b : List Word) : (d.reply h st b).pu = d.pu := rfl
@[simp] theorem Device.reply_pc (d : Device) (h : OrderHeader) (st : Status) (b : List Word) : (d.reply h st b).pc = d.pc := rfl
@[simp] theorem Device.reply_rf (d : Device) (h : OrderHeader) (st : Status) (b : List Word) : (d.reply h st b).rf = d.rf := rfl
@[simp] theorem Device.reply_hp (d : Device) (h : OrderHeader) (st : Status) (b : List Word) : (d.reply h st b).hp = d.hp := rfl
@[simp] theorem Device.reply_cp_chainId (d : Device) (h : OrderHeader) (st : Status) (b : List Word) : (d.reply h st b).cp.chainId = d.cp.chainId := rfl
@[simp] theorem Device.reply_cp_downSync (d : Device) (h : OrderHeader) (st : Status) (b : List Word) : (d.reply h st b).cp.downSync = d.cp.downSync := rfl
@[simp] theorem Device.reply_cp_returnSync (d : Device) (h : OrderHeader) (st : Status) (b : List Word) : (d.reply h st b).cp.returnSync = d.cp.returnSync := rfl
@[simp] theorem Device.reply_cp_rx (d : Device) (h : OrderHeader) (st : Status) (b : List Word) : (d.reply h st b).cp.rx = d.cp.rx := rfl
@[simp] theorem Device.reply_cp_orderQ (d : Device) (h : OrderHeader) (st : Status) (b : List Word) : (d.reply h st b).cp.orderQ = d.cp.orderQ := rfl
@[simp] theorem Device.reply_cp_returnRx (d : Device) (h : OrderHeader) (st : Status) (b : List Word) : (d.reply h st b).cp.returnRx = d.cp.returnRx := rfl
@[simp] theorem Device.reply_cp_returnQ (d : Device) (h : OrderHeader) (st : Status) (b : List Word) : (d.reply h st b).cp.returnQ = d.cp.returnQ := rfl
@[simp] theorem Device.reply_cp_upSending (d : Device) (h : OrderHeader) (st : Status) (b : List Word) : (d.reply h st b).cp.upSending = d.cp.upSending := rfl
@[simp] theorem Device.reply_cp_upLast (d : Device) (h : OrderHeader) (st : Status) (b : List Word) : (d.reply h st b).cp.upLast = d.cp.upLast := rfl
@[simp] theorem Device.reply_cp_downOut (d : Device) (h : OrderHeader) (st : Status) (b : List Word) : (d.reply h st b).cp.downOut = d.cp.downOut := rfl

@[simp] theorem Device.finishExec_resetPin (d : Device) (h : OrderHeader) (st : Status) (b : List Word) : (d.finishExec h st b).resetPin = d.resetPin := rfl
@[simp] theorem Device.finishExec_now (d : Device) (h : OrderHeader) (st : Status) (b : List Word) : (d.finishExec h st b).now = d.now := rfl
@[simp] theorem Device.finishExec_freeCount (d : Device) (h : OrderHeader) (st : Status) (b : List Word) : (d.finishExec h st b).freeCount = d.freeCount := rfl
@[simp] theorem Device.finishExec_mem (d : Device) (h : OrderHeader) (st : Status) (b : List Word) : (d.finishExec h st b).mem = d.mem := rfl
@[simp] theorem Device.finishExec_ib (d : Device) (h : OrderHeader) (st : Status) (b : List Word) : (d.finishExec h st b).ib = d.ib := rfl
@[simp] theorem Device.finishExec_tab (d : Device) (h : OrderHeader) (st : Status) (b : List Word) : (d.finishExec h st b).tab = d.tab := rfl
@[simp] theorem Device.finishExec_le (d : Device) (h : OrderHeader) (st : Status) (b : List Word) : (d.finishExec h st b).le = d.le := rfl
@[simp] theorem Device.finishExec_ls (d : Device) (h : OrderHeader) (st : Status) (b : List Word) : (d.finishExec h st b).ls = d.ls := rfl
@[simp] theorem Device.finishExec_pu (d : Device) (h : OrderHeader) (st : Status) (b : List Word) : (d.finishExec h st b).pu = d.pu := rfl
@[simp] theorem Device.finishExec_pc (d : Device) (h : OrderHeader) (st : Status) (b : List Word) : (d.finishExec h st b).pc = d.pc := rfl
@[simp] theorem Device.finishExec_rf (d : Device) (h : OrderHeader) (st : Status) (b : List Word) : (d.finishExec h st b).rf = d.rf := rfl
@[simp] theorem Device.finishExec_hp (d : Device) (h : OrderHeader) (st : Status) (b : List Word) : (d.finishExec h st b).hp = d.hp := rfl
@[simp] theorem Device.finishExec_cp_chainId (d : Device) (h : OrderHeader) (st : Status) (b : List Word) : (d.finishExec h st b).cp.chainId = d.cp.chainId := rfl
@[simp] theorem Device.finishExec_cp_downSync (d : Device) (h : OrderHeader) (st : Status) (b : List Word) : (d.finishExec h st b).cp.downSync = d.cp.downSync := rfl
@[simp] theorem Device.finishExec_cp_returnSync (d : Device) (h : OrderHeader) (st : Status) (b : List Word) : (d.finishExec h st b).cp.returnSync = d.cp.returnSync := rfl
@[simp] theorem Device.finishExec_cp_rx (d : Device) (h : OrderHeader) (st : Status) (b : List Word) : (d.finishExec h st b).cp.rx = d.cp.rx := rfl
@[simp] theorem Device.finishExec_cp_orderQ (d : Device) (h : OrderHeader) (st : Status) (b : List Word) : (d.finishExec h st b).cp.orderQ = d.cp.orderQ := rfl
@[simp] theorem Device.finishExec_cp_returnRx (d : Device) (h : OrderHeader) (st : Status) (b : List Word) : (d.finishExec h st b).cp.returnRx = d.cp.returnRx := rfl
@[simp] theorem Device.finishExec_cp_returnQ (d : Device) (h : OrderHeader) (st : Status) (b : List Word) : (d.finishExec h st b).cp.returnQ = d.cp.returnQ := rfl
@[simp] theorem Device.finishExec_cp_upSending (d : Device) (h : OrderHeader) (st : Status) (b : List Word) : (d.finishExec h st b).cp.upSending = d.cp.upSending := rfl
@[simp] theorem Device.finishExec_cp_upLast (d : Device) (h : OrderHeader) (st : Status) (b : List Word) : (d.finishExec h st b).cp.upLast = d.cp.upLast := rfl
@[simp] theorem Device.finishExec_cp_downOut (d : Device) (h : OrderHeader) (st : Status) (b : List Word) : (d.finishExec h st b).cp.downOut = d.cp.downOut := rfl
@[simp] theorem Device.finishExec_ou_devEvents (d : Device) (h : OrderHeader) (st : Status) (b : List Word) : (d.finishExec h st b).ou.devEvents = d.ou.devEvents := rfl
@[simp] theorem Device.finishExec_ou_headEvents (d : Device) (h : OrderHeader) (st : Status) (b : List Word) : (d.finishExec h st b).ou.headEvents = d.ou.headEvents := rfl
@[simp] theorem Device.finishExec_ou_devMask (d : Device) (h : OrderHeader) (st : Status) (b : List Word) : (d.finishExec h st b).ou.devMask = d.ou.devMask := rfl
@[simp] theorem Device.finishExec_ou_headMasks (d : Device) (h : OrderHeader) (st : Status) (b : List Word) : (d.finishExec h st b).ou.headMasks = d.ou.headMasks := rfl
@[simp] theorem Device.finishExec_ou_devCounts (d : Device) (h : OrderHeader) (st : Status) (b : List Word) : (d.finishExec h st b).ou.devCounts = d.ou.devCounts := rfl
@[simp] theorem Device.finishExec_ou_headCounts (d : Device) (h : OrderHeader) (st : Status) (b : List Word) : (d.finishExec h st b).ou.headCounts = d.ou.headCounts := rfl
@[simp] theorem Device.finishExec_ou_memory (d : Device) (h : OrderHeader) (st : Status) (b : List Word) : (d.finishExec h st b).ou.memory = d.ou.memory := rfl

@[simp] theorem Device.emit_resetPin (d : Device) (tx : List DownTx) : (d.emit tx).resetPin = d.resetPin := rfl
@[simp] theorem Device.emit_now (d : Device) (tx : List DownTx) : (d.emit tx).now = d.now := rfl
@[simp] theorem Device.emit_freeCount (d : Device) (tx : List DownTx) : (d.emit tx).freeCount = d.freeCount := rfl
@[simp] theorem Device.emit_mem (d : Device) (tx : List DownTx) : (d.emit tx).mem = d.mem := rfl
@[simp] theorem Device.emit_ib (d : Device) (tx : List DownTx) : (d.emit tx).ib = d.ib := rfl
@[simp] theorem Device.emit_ou (d : Device) (tx : List DownTx) : (d.emit tx).ou = d.ou := rfl
@[simp] theorem Device.emit_tab (d : Device) (tx : List DownTx) : (d.emit tx).tab = d.tab := rfl
@[simp] theorem Device.emit_le (d : Device) (tx : List DownTx) : (d.emit tx).le = d.le := rfl
@[simp] theorem Device.emit_ls (d : Device) (tx : List DownTx) : (d.emit tx).ls = d.ls := rfl
@[simp] theorem Device.emit_pu (d : Device) (tx : List DownTx) : (d.emit tx).pu = d.pu := rfl
@[simp] theorem Device.emit_pc (d : Device) (tx : List DownTx) : (d.emit tx).pc = d.pc := rfl
@[simp] theorem Device.emit_rf (d : Device) (tx : List DownTx) : (d.emit tx).rf = d.rf := rfl
@[simp] theorem Device.emit_hp (d : Device) (tx : List DownTx) : (d.emit tx).hp = d.hp := rfl
@[simp] theorem Device.emit_cp_chainId (d : Device) (tx : List DownTx) : (d.emit tx).cp.chainId = d.cp.chainId := rfl
@[simp] theorem Device.emit_cp_downSync (d : Device) (tx : List DownTx) : (d.emit tx).cp.downSync = d.cp.downSync := rfl
@[simp] theorem Device.emit_cp_returnSync (d : Device) (tx : List DownTx) : (d.emit tx).cp.returnSync = d.cp.returnSync := rfl
@[simp] theorem Device.emit_cp_rx (d : Device) (tx : List DownTx) : (d.emit tx).cp.rx = d.cp.rx := rfl
@[simp] theorem Device.emit_cp_orderQ (d : Device) (tx : List DownTx) : (d.emit tx).cp.orderQ = d.cp.orderQ := rfl
@[simp] theorem Device.emit_cp_replies (d : Device) (tx : List DownTx) : (d.emit tx).cp.replies = d.cp.replies := rfl
@[simp] theorem Device.emit_cp_returnRx (d : Device) (tx : List DownTx) : (d.emit tx).cp.returnRx = d.cp.returnRx := rfl
@[simp] theorem Device.emit_cp_returnQ (d : Device) (tx : List DownTx) : (d.emit tx).cp.returnQ = d.cp.returnQ := rfl
@[simp] theorem Device.emit_cp_upSending (d : Device) (tx : List DownTx) : (d.emit tx).cp.upSending = d.cp.upSending := rfl
@[simp] theorem Device.emit_cp_upLast (d : Device) (tx : List DownTx) : (d.emit tx).cp.upLast = d.cp.upLast := rfl

@[simp] theorem Device.dropArriving_resetPin (d : Device) : (d.dropArriving).resetPin = d.resetPin := rfl
@[simp] theorem Device.dropArriving_now (d : Device) : (d.dropArriving).now = d.now := rfl
@[simp] theorem Device.dropArriving_freeCount (d : Device) : (d.dropArriving).freeCount = d.freeCount := rfl
@[simp] theorem Device.dropArriving_mem (d : Device) : (d.dropArriving).mem = d.mem := rfl
@[simp] theorem Device.dropArriving_ib (d : Device) : (d.dropArriving).ib = d.ib := rfl
@[simp] theorem Device.dropArriving_ou (d : Device) : (d.dropArriving).ou = d.ou := rfl
@[simp] theorem Device.dropArriving_tab (d : Device) : (d.dropArriving).tab = d.tab := rfl
@[simp] theorem Device.dropArriving_le (d : Device) : (d.dropArriving).le = d.le := rfl
@[simp] theorem Device.dropArriving_ls (d : Device) : (d.dropArriving).ls = d.ls := rfl
@[simp] theorem Device.dropArriving_pu (d : Device) : (d.dropArriving).pu = d.pu := rfl
@[simp] theorem Device.dropArriving_pc (d : Device) : (d.dropArriving).pc = d.pc := rfl
@[simp] theorem Device.dropArriving_rf (d : Device) : (d.dropArriving).rf = d.rf := rfl
@[simp] theorem Device.dropArriving_hp (d : Device) : (d.dropArriving).hp = d.hp := rfl
@[simp] theorem Device.dropArriving_cp_chainId (d : Device) : (d.dropArriving).cp.chainId = d.cp.chainId := rfl
@[simp] theorem Device.dropArriving_cp_downSync (d : Device) : (d.dropArriving).cp.downSync = d.cp.downSync := rfl
@[simp] theorem Device.dropArriving_cp_returnSync (d : Device) : (d.dropArriving).cp.returnSync = d.cp.returnSync := rfl
@[simp] theorem Device.dropArriving_cp_rx (d : Device) : (d.dropArriving).cp.rx = d.cp.rx := rfl
@[simp] theorem Device.dropArriving_cp_replies (d : Device) : (d.dropArriving).cp.replies = d.cp.replies := rfl
@[simp] theorem Device.dropArriving_cp_returnRx (d : Device) : (d.dropArriving).cp.returnRx = d.cp.returnRx := rfl
@[simp] theorem Device.dropArriving_cp_returnQ (d : Device) : (d.dropArriving).cp.returnQ = d.cp.returnQ := rfl
@[simp] theorem Device.dropArriving_cp_upSending (d : Device) : (d.dropArriving).cp.upSending = d.cp.upSending := rfl
@[simp] theorem Device.dropArriving_cp_upLast (d : Device) : (d.dropArriving).cp.upLast = d.cp.upLast := rfl
@[simp] theorem Device.dropArriving_cp_downOut (d : Device) : (d.dropArriving).cp.downOut = d.cp.downOut := rfl

@[simp] theorem Device.rxIdle_resetPin (d : Device) : (d.rxIdle).resetPin = d.resetPin := rfl
@[simp] theorem Device.rxIdle_now (d : Device) : (d.rxIdle).now = d.now := rfl
@[simp] theorem Device.rxIdle_freeCount (d : Device) : (d.rxIdle).freeCount = d.freeCount := rfl
@[simp] theorem Device.rxIdle_mem (d : Device) : (d.rxIdle).mem = d.mem := rfl
@[simp] theorem Device.rxIdle_ib (d : Device) : (d.rxIdle).ib = d.ib := rfl
@[simp] theorem Device.rxIdle_ou (d : Device) : (d.rxIdle).ou = d.ou := rfl
@[simp] theorem Device.rxIdle_tab (d : Device) : (d.rxIdle).tab = d.tab := rfl
@[simp] theorem Device.rxIdle_le (d : Device) : (d.rxIdle).le = d.le := rfl
@[simp] theorem Device.rxIdle_ls (d : Device) : (d.rxIdle).ls = d.ls := rfl
@[simp] theorem Device.rxIdle_pu (d : Device) : (d.rxIdle).pu = d.pu := rfl
@[simp] theorem Device.rxIdle_pc (d : Device) : (d.rxIdle).pc = d.pc := rfl
@[simp] theorem Device.rxIdle_rf (d : Device) : (d.rxIdle).rf = d.rf := rfl
@[simp] theorem Device.rxIdle_hp (d : Device) : (d.rxIdle).hp = d.hp := rfl
@[simp] theorem Device.rxIdle_cp_chainId (d : Device) : (d.rxIdle).cp.chainId = d.cp.chainId := rfl
@[simp] theorem Device.rxIdle_cp_downSync (d : Device) : (d.rxIdle).cp.downSync = d.cp.downSync := rfl
@[simp] theorem Device.rxIdle_cp_returnSync (d : Device) : (d.rxIdle).cp.returnSync = d.cp.returnSync := rfl
@[simp] theorem Device.rxIdle_cp_orderQ (d : Device) : (d.rxIdle).cp.orderQ = d.cp.orderQ := rfl
@[simp] theorem Device.rxIdle_cp_replies (d : Device) : (d.rxIdle).cp.replies = d.cp.replies := rfl
@[simp] theorem Device.rxIdle_cp_returnRx (d : Device) : (d.rxIdle).cp.returnRx = d.cp.returnRx := rfl
@[simp] theorem Device.rxIdle_cp_returnQ (d : Device) : (d.rxIdle).cp.returnQ = d.cp.returnQ := rfl
@[simp] theorem Device.rxIdle_cp_upSending (d : Device) : (d.rxIdle).cp.upSending = d.cp.upSending := rfl
@[simp] theorem Device.rxIdle_cp_upLast (d : Device) : (d.rxIdle).cp.upLast = d.cp.upLast := rfl
@[simp] theorem Device.rxIdle_cp_downOut (d : Device) : (d.rxIdle).cp.downOut = d.cp.downOut := rfl

@[simp] theorem Device.dropFilling_resetPin (d : Device) : (d.dropFilling).resetPin = d.resetPin := rfl
@[simp] theorem Device.dropFilling_now (d : Device) : (d.dropFilling).now = d.now := rfl
@[simp] theorem Device.dropFilling_freeCount (d : Device) : (d.dropFilling).freeCount = d.freeCount := rfl
@[simp] theorem Device.dropFilling_mem (d : Device) : (d.dropFilling).mem = d.mem := rfl
@[simp] theorem Device.dropFilling_cp (d : Device) : (d.dropFilling).cp = d.cp := rfl
@[simp] theorem Device.dropFilling_ou (d : Device) : (d.dropFilling).ou = d.ou := rfl
@[simp] theorem Device.dropFilling_tab (d : Device) : (d.dropFilling).tab = d.tab := rfl
@[simp] theorem Device.dropFilling_le (d : Device) : (d.dropFilling).le = d.le := rfl
@[simp] theorem Device.dropFilling_ls (d : Device) : (d.dropFilling).ls = d.ls := rfl
@[simp] theorem Device.dropFilling_pu (d : Device) : (d.dropFilling).pu = d.pu := rfl
@[simp] theorem Device.dropFilling_pc (d : Device) : (d.dropFilling).pc = d.pc := rfl
@[simp] theorem Device.dropFilling_rf (d : Device) : (d.dropFilling).rf = d.rf := rfl
@[simp] theorem Device.dropFilling_hp (d : Device) : (d.dropFilling).hp = d.hp := rfl
@[simp] theorem Device.dropFilling_ib_complete (d : Device) : (d.dropFilling).ib.complete = d.ib.complete := rfl

@[simp] theorem Device.calmRows_resetPin (d : Device) : (d.calmRows).resetPin = d.resetPin := rfl
@[simp] theorem Device.calmRows_now (d : Device) : (d.calmRows).now = d.now := rfl
@[simp] theorem Device.calmRows_freeCount (d : Device) : (d.calmRows).freeCount = d.freeCount := rfl
@[simp] theorem Device.calmRows_mem (d : Device) : (d.calmRows).mem = d.mem := rfl
@[simp] theorem Device.calmRows_cp (d : Device) : (d.calmRows).cp = d.cp := rfl
@[simp] theorem Device.calmRows_ib (d : Device) : (d.calmRows).ib = d.ib := rfl
@[simp] theorem Device.calmRows_ou (d : Device) : (d.calmRows).ou = d.ou := rfl
@[simp] theorem Device.calmRows_tab (d : Device) : (d.calmRows).tab = d.tab := rfl
@[simp] theorem Device.calmRows_le (d : Device) : (d.calmRows).le = d.le := rfl
@[simp] theorem Device.calmRows_ls (d : Device) : (d.calmRows).ls = d.ls := rfl
@[simp] theorem Device.calmRows_pc (d : Device) : (d.calmRows).pc = d.pc := rfl
@[simp] theorem Device.calmRows_rf (d : Device) : (d.calmRows).rf = d.rf := rfl
@[simp] theorem Device.calmRows_hp (d : Device) : (d.calmRows).hp = d.hp := rfl
@[simp] theorem Device.calmRows_pu_chA (d : Device) : (d.calmRows).pu.chA = d.pu.chA := rfl
@[simp] theorem Device.calmRows_pu_chB (d : Device) : (d.calmRows).pu.chB = d.pu.chB := rfl
@[simp] theorem Device.calmRows_pu_filterOld (d : Device) : (d.calmRows).pu.filterOld = d.pu.filterOld := rfl
@[simp] theorem Device.calmRows_pu_pair (d : Device) : (d.calmRows).pu.pair = d.pu.pair := rfl
@[simp] theorem Device.calmRows_pu_debt (d : Device) : (d.calmRows).pu.debt = d.pu.debt := rfl
@[simp] theorem Device.calmRows_pu_phase (d : Device) : (d.calmRows).pu.phase = d.pu.phase := rfl
@[simp] theorem Device.calmRows_pu_count (d : Device) : (d.calmRows).pu.count = d.pu.count := rfl
@[simp] theorem Device.calmRows_pu_reference (d : Device) : (d.calmRows).pu.reference = d.pu.reference := rfl
@[simp] theorem Device.calmRows_pu_interval (d : Device) : (d.calmRows).pu.interval = d.pu.interval := rfl
@[simp] theorem Device.calmRows_pu_intervalValid (d : Device) : (d.calmRows).pu.intervalValid = d.pu.intervalValid := rfl

@[simp] theorem Device.startPosition_resetPin (d : Device) : (d.startPosition).resetPin = d.resetPin := rfl
@[simp] theorem Device.startPosition_now (d : Device) : (d.startPosition).now = d.now := rfl
@[simp] theorem Device.startPosition_freeCount (d : Device) : (d.startPosition).freeCount = d.freeCount := rfl
@[simp] theorem Device.startPosition_mem (d : Device) : (d.startPosition).mem = d.mem := rfl
@[simp] theorem Device.startPosition_cp (d : Device) : (d.startPosition).cp = d.cp := rfl
@[simp] theorem Device.startPosition_ib (d : Device) : (d.startPosition).ib = d.ib := rfl
@[simp] theorem Device.startPosition_ou (d : Device) : (d.startPosition).ou = d.ou := rfl
@[simp] theorem Device.startPosition_tab (d : Device) : (d.startPosition).tab = d.tab := rfl
@[simp] theorem Device.startPosition_le (d : Device) : (d.startPosition).le = d.le := rfl
@[simp] theorem Device.startPosition_ls (d : Device) : (d.startPosition).ls = d.ls := rfl
@[simp] theorem Device.startPosition_pc (d : Device) : (d.startPosition).pc = d.pc := rfl
@[simp] theorem Device.startPosition_rf (d : Device) : (d.startPosition).rf = d.rf := rfl
@[simp] theorem Device.startPosition_hp (d : Device) : (d.startPosition).hp = d.hp := rfl
@[simp] theorem Device.startPosition_pu_chA (d : Device) : (d.startPosition).pu.chA = d.pu.chA := rfl
@[simp] theorem Device.startPosition_pu_chB (d : Device) : (d.startPosition).pu.chB = d.pu.chB := rfl
@[simp] theorem Device.startPosition_pu_filterOld (d : Device) : (d.startPosition).pu.filterOld = d.pu.filterOld := rfl
@[simp] theorem Device.startPosition_pu_pair (d : Device) : (d.startPosition).pu.pair = d.pu.pair := rfl
@[simp] theorem Device.startPosition_pu_interval (d : Device) : (d.startPosition).pu.interval = d.pu.interval := rfl

@[simp] theorem Device.establishRings_resetPin (d : Device) : (d.establishRings).resetPin = d.resetPin := rfl
@[simp] theorem Device.establishRings_now (d : Device) : (d.establishRings).now = d.now := rfl
@[simp] theorem Device.establishRings_freeCount (d : Device) : (d.establishRings).freeCount = d.freeCount := rfl
@[simp] theorem Device.establishRings_mem (d : Device) : (d.establishRings).mem = d.mem := rfl
@[simp] theorem Device.establishRings_cp (d : Device) : (d.establishRings).cp = d.cp := rfl
@[simp] theorem Device.establishRings_ib (d : Device) : (d.establishRings).ib = d.ib := rfl
@[simp] theorem Device.establishRings_ou (d : Device) : (d.establishRings).ou = d.ou := rfl
@[simp] theorem Device.establishRings_tab (d : Device) : (d.establishRings).tab = d.tab := rfl
@[simp] theorem Device.establishRings_le (d : Device) : (d.establishRings).le = d.le := rfl
@[simp] theorem Device.establishRings_pu (d : Device) : (d.establishRings).pu = d.pu := rfl
@[simp] theorem Device.establishRings_pc (d : Device) : (d.establishRings).pc = d.pc := rfl
@[simp] theorem Device.establishRings_rf (d : Device) : (d.establishRings).rf = d.rf := rfl
@[simp] theorem Device.establishRings_hp (d : Device) : (d.establishRings).hp = d.hp := rfl
@[simp] theorem Device.establishRings_ls_fetchQ (d : Device) : (d.establishRings).ls.fetchQ = d.ls.fetchQ := rfl
@[simp] theorem Device.establishRings_ls_fetchRaised (d : Device) : (d.establishRings).ls.fetchRaised = d.ls.fetchRaised := rfl
@[simp] theorem Device.establishRings_ls_writeQ (d : Device) : (d.establishRings).ls.writeQ = d.ls.writeQ := rfl
@[simp] theorem Device.establishRings_ls_window (d : Device) : (d.establishRings).ls.window = d.ls.window := rfl
@[simp] theorem Device.establishRings_ls_service (d : Device) : (d.establishRings).ls.service = d.ls.service := rfl

@[simp] theorem Device.rowsLeaveReady_resetPin (d : Device) (p : PortIx) : (d.rowsLeaveReady p).resetPin = d.resetPin := rfl
@[simp] theorem Device.rowsLeaveReady_now (d : Device) (p : PortIx) : (d.rowsLeaveReady p).now = d.now := rfl
@[simp] theorem Device.rowsLeaveReady_freeCount (d : Device) (p : PortIx) : (d.rowsLeaveReady p).freeCount = d.freeCount := rfl
@[simp] theorem Device.rowsLeaveReady_mem (d : Device) (p : PortIx) : (d.rowsLeaveReady p).mem = d.mem := rfl
@[simp] theorem Device.rowsLeaveReady_cp (d : Device) (p : PortIx) : (d.rowsLeaveReady p).cp = d.cp := rfl
@[simp] theorem Device.rowsLeaveReady_ib (d : Device) (p : PortIx) : (d.rowsLeaveReady p).ib = d.ib := rfl
@[simp] theorem Device.rowsLeaveReady_ou (d : Device) (p : PortIx) : (d.rowsLeaveReady p).ou = d.ou := rfl
@[simp] theorem Device.rowsLeaveReady_tab (d : Device) (p : PortIx) : (d.rowsLeaveReady p).tab = d.tab := rfl
@[simp] theorem Device.rowsLeaveReady_le (d : Device) (p : PortIx) : (d.rowsLeaveReady p).le = d.le := rfl
@[simp] theorem Device.rowsLeaveReady_pu (d : Device) (p : PortIx) : (d.rowsLeaveReady p).pu = d.pu := rfl
@[simp] theorem Device.rowsLeaveReady_pc (d : Device) (p : PortIx) : (d.rowsLeaveReady p).pc = d.pc := rfl
@[simp] theorem Device.rowsLeaveReady_hp (d : Device) (p : PortIx) : (d.rowsLeaveReady p).hp = d.hp := rfl
@[simp] theorem Device.rowsLeaveReady_ls_rings (d : Device) (p : PortIx) : (d.rowsLeaveReady p).ls.rings = d.ls.rings := rfl
@[simp] theorem Device.rowsLeaveReady_ls_writeQ (d : Device) (p : PortIx) : (d.rowsLeaveReady p).ls.writeQ = d.ls.writeQ := rfl
@[simp] theorem Device.rowsLeaveReady_ls_window (d : Device) (p : PortIx) : (d.rowsLeaveReady p).ls.window = d.ls.window := rfl

@[simp] theorem Device.tick_resetPin (d : Device) : (d.tick).resetPin = d.resetPin := rfl
@[simp] theorem Device.tick_freeCount (d : Device) : (d.tick).freeCount = d.freeCount := rfl
@[simp] theorem Device.tick_mem (d : Device) : (d.tick).mem = d.mem := rfl
@[simp] theorem Device.tick_cp (d : Device) : (d.tick).cp = d.cp := rfl
@[simp] theorem Device.tick_ib (d : Device) : (d.tick).ib = d.ib := rfl
@[simp] theorem Device.tick_ou (d : Device) : (d.tick).ou = d.ou := rfl
@[simp] theorem Device.tick_tab (d : Device) : (d.tick).tab = d.tab := rfl
@[simp] theorem Device.tick_le (d : Device) : (d.tick).le = d.le := rfl
@[simp] theorem Device.tick_ls (d : Device) : (d.tick).ls = d.ls := rfl
@[simp] theorem Device.tick_pu (d : Device) : (d.tick).pu = d.pu := rfl
@[simp] theorem Device.tick_pc (d : Device) : (d.tick).pc = d.pc := rfl
@[simp] theorem Device.tick_rf (d : Device) : (d.tick).rf = d.rf := rfl
@[simp] theorem Device.tick_hp (d : Device) : (d.tick).hp = d.hp := rfl

/-! ### What an update writes -/

@[simp] theorem Device.setEvent_devEvents (d : Device) (e : DevEvent) :
    (d.setEvent e).ou.devEvents = d.ou.devEvents ||| BitVec.ofNat 32 (2 ^ e.bit) := rfl
@[simp] theorem Device.setHeadEvent_headEvents (d : Device) (p : PortIx) (e : HeadEvent) :
    (d.setHeadEvent p e).ou.headEvents = vmod d.ou.headEvents p (· ||| BitVec.ofNat 32 (2 ^ e.bit)) := rfl
@[simp] theorem Device.count_devCounts (d : Device) (c : DevCounter) (n : Nat) :
    (d.count c n).ou.devCounts = vmod d.ou.devCounts c.index (satAdd · n) := rfl
@[simp] theorem Device.countHead_headCounts (d : Device) (p : PortIx) (c : HeadCounter) (n : Nat) :
    (d.countHead p c n).ou.headCounts = vmod d.ou.headCounts p (fun b => vmod b c.index (satAdd · n)) := rfl
@[simp] theorem Device.modPort_hp (d : Device) (p : PortIx) (f : HeadPort → HeadPort) : (d.modPort p f).hp = vmod d.hp p f := rfl
@[simp] theorem Device.modPipe_rf (d : Device) (p : PortIx) (r : RowIx) (f : Pipeline → Pipeline) :
    (d.modPipe p r f).rf = rmod d.rf p r f := rfl
@[simp] theorem Device.modRowPos_rows (d : Device) (p : PortIx) (r : RowIx) (f : RowPosition → RowPosition) :
    (d.modRowPos p r f).pu.rows = rmod d.pu.rows p r f := rfl
@[simp] theorem Device.modRing_rings (d : Device) (p : PortIx) (f : Ring → Ring) :
    (d.modRing p f).ls.rings = vmod d.ls.rings p (Option.map f) := rfl
@[simp] theorem Device.modRings_rings (d : Device) (f : Ring → Ring) : (d.modRings f).ls.rings = vmap (Option.map f) d.ls.rings := rfl
@[simp] theorem Device.pushReply_replies (d : Device) (h : OrderHeader) (st : Status) (b : List Word) (x : Bool) :
    (d.pushReply h st b x).cp.replies = d.cp.replies ++
      [{ source := d.cp.chainId, tag := h.tag, code := h.code, status := st, body := b, endsReset := x }] := rfl
@[simp] theorem Device.reply_replies (d : Device) (h : OrderHeader) (st : Status) (b : List Word) :
    (d.reply h st b).cp.replies = d.cp.replies ++
      [{ source := d.cp.chainId, tag := h.tag, code := h.code, status := st, body := b, endsReset := false }] := rfl
@[simp] theorem Device.finishExec_replies (d : Device) (h : OrderHeader) (st : Status) (b : List Word) :
    (d.finishExec h st b).cp.replies = d.cp.replies ++
      [{ source := d.cp.chainId, tag := h.tag, code := h.code, status := st, body := b, endsReset := false }] := rfl
@[simp] theorem Device.finishExec_exec (d : Device) (h : OrderHeader) (st : Status) (b : List Word) :
    (d.finishExec h st b).ou.exec = none := rfl
@[simp] theorem Device.emit_downOut (d : Device) (tx : List DownTx) : (d.emit tx).cp.downOut = d.cp.downOut ++ tx := rfl
@[simp] theorem Device.rxIdle_rx (d : Device) : d.rxIdle.cp.rx = .idle := rfl
@[simp] theorem Device.dropFilling_filling (d : Device) : d.dropFilling.ib.filling = none := rfl
@[simp] theorem Device.dropArriving_orderQ (d : Device) : d.dropArriving.cp.orderQ = d.cp.orderQ.filter OrderPlace.isComplete := rfl
@[simp] theorem Device.abandonLanding_le (d : Device) : d.abandonLanding.le = none := rfl
@[simp] theorem Device.abandonLanding_writeQ (d : Device) : d.abandonLanding.ls.writeQ = [] := rfl
@[simp] theorem Device.flush_le (d : Device) : d.flush.le = none := rfl
@[simp] theorem Device.flush_fetchQ (d : Device) : d.flush.ls.fetchQ = [] := rfl
@[simp] theorem Device.flush_fetchRaised (d : Device) : d.flush.ls.fetchRaised = [] := rfl
@[simp] theorem Device.flush_writeQ (d : Device) : d.flush.ls.writeQ = [] := rfl
@[simp] theorem Device.tick_now (d : Device) : d.tick.now = d.now + 1 := rfl

end Sys2Proof.Machine
end

