-- ==== Sys2Proof/Laws/Counters.lean ====
section
/-! SUPPORT. Counters and events: what a count adds (R34), what a set event sets (R31), and sums of counts. -/

namespace Sys2Proof.Machine

theorem DevCounter.index_inj {a b : DevCounter} (h : a.index = b.index) : a = b := by
  cases a <;> cases b <;> first | rfl | exact absurd h (by decide)

theorem HeadCounter.index_inj {a b : HeadCounter} (h : a.index = b.index) : a = b := by
  cases a <;> cases b <;> first | rfl | exact absurd h (by decide)

theorem satAdd_toNat (w : Word) (n : Nat) : (satAdd w n).toNat = min (w.toNat + n) 4294967295 := by
  unfold satAdd
  rw [BitVec.toNat_ofNat, Nat.mod_eq_of_lt (by omega)]

theorem word_le (w : Word) : w.toNat ≤ 4294967295 := by have := w.isLt; omega

theorem Device.counter_count (d : Device) (c k : DevCounter) (n : Nat) :
    (d.count c n).counter k = if k = c then satAdd (d.counter k) n else d.counter k := by
  unfold Device.counter Device.count
  rw [vget_vmod]
  by_cases h : k = c
  · simp [h]
  · rw [if_neg h, if_neg (fun e => h (DevCounter.index_inj e))]

theorem Device.headCounter_countHead (d : Device) (p q : PortIx) (c k : HeadCounter) (n : Nat) :
    (d.countHead p c n).headCounter q k = if q = p ∧ k = c then satAdd (d.headCounter q k) n else d.headCounter q k := by
  unfold Device.headCounter Device.countHead
  rw [vget_vmod]
  by_cases h : q = p
  · rw [if_pos h, vget_vmod]
    by_cases h' : k = c
    · rw [if_pos (by rw [h']), if_pos ⟨h, h'⟩]
    · rw [if_neg (fun e => h' (HeadCounter.index_inj e)), if_neg (fun e => h' e.2)]
  · rw [if_neg h, if_neg (fun e => h e.1)]

/-- Two devices with the same device counters. -/
theorem counted_same (a b : Device) (h : b.ou.devCounts = a.ou.devCounts) : counted a b (fun _ => 0) := by
  intro c
  unfold Device.counter
  rw [h]
  have := word_le (vget a.ou.devCounts c.index)
  dsimp only
  omega

/-- Two devices with the same head counters. -/
theorem headCounted_same (a b : Device) (h : b.ou.headCounts = a.ou.headCounts) : headCounted a b (fun _ _ => 0) := by
  intro p c
  unfold Device.headCounter
  rw [h]
  have := word_le (vget (vget a.ou.headCounts p) c.index)
  dsimp only
  omega

theorem counted_count (d : Device) (c : DevCounter) (n : Nat) : counted d (d.count c n) (fun k => if k = c then n else 0) := by
  intro k
  rw [Device.counter_count]
  dsimp only
  split
  · exact satAdd_toNat _ _
  · have := word_le (d.counter k)
    omega

theorem headCounted_countHead (d : Device) (p : PortIx) (c : HeadCounter) (n : Nat) :
    headCounted d (d.countHead p c n) (fun q k => if q = p ∧ k = c then n else 0) := by
  intro q k
  rw [Device.headCounter_countHead]
  dsimp only
  split
  · exact satAdd_toNat _ _
  · have := word_le (d.headCounter q k)
    omega

/-- What is added may be written in any way that comes to the same. -/
theorem counted_congr {a b : Device} {f g : DevCounter → Nat} (h : counted a b f) (k : ∀ c, f c = g c) : counted a b g := by
  intro c
  rw [← k c]
  exact h c

theorem headCounted_congr {a b : Device} {f g : PortIx → HeadCounter → Nat} (h : headCounted a b f) (k : ∀ p c, f p c = g p c) :
    headCounted a b g := by
  intro p c
  rw [← k p c]
  exact h p c

/-- Counts add up. -/
theorem counted_trans {a b c : Device} {f g : DevCounter → Nat} (h : counted a b f) (k : counted b c g) :
    counted a c (fun x => f x + g x) := by
  intro x
  have := h x
  have := k x
  dsimp only
  omega

theorem headCounted_trans {a b c : Device} {f g : PortIx → HeadCounter → Nat} (h : headCounted a b f) (k : headCounted b c g) :
    headCounted a c (fun p x => f p x + g p x) := by
  intro p x
  have := h p x
  have := k p x
  dsimp only
  omega

end Sys2Proof.Machine
end

