-- ==== Sys2Proof/Laws/Lane.lean ====
section
/-! SUPPORT. What the operations of the head lane can do: nibble counts (R166, R168), the end of LOAD_WAVES (R165), a head's messages
(R174), and the order of tokens (R169). -/

namespace Sys2Proof.Machine

/-! ### Nibbles -/

@[simp] theorem nibblesOf_length (n v : Nat) : (nibblesOf n v).length = n := by
  induction n generalizing v with
  | zero => rfl
  | succ n ih => simp [nibblesOf, ih]

theorem nibblesOf_lt (n v : Nat) : ∀ x ∈ nibblesOf n v, x < 16 := by
  induction n generalizing v with
  | zero => simp [nibblesOf]
  | succ n ih =>
    intro x hx
    rcases List.mem_append.1 hx with h | h
    · exact ih _ x h
    · rw [List.mem_singleton.1 h]; exact Nat.mod_lt _ (by decide)

@[simp] theorem Segment.form_length (g : Segment) : g.form.length = 4 := by simp [Segment.form]

@[simp] theorem FrameSym.start_form_length (r : RowIx) (t : Nat) : (FrameSym.start r t).form.length = 8 := by
  simp [FrameSym.form]

@[simp] theorem FrameSym.code_form_length (c : Nat) : (FrameSym.code c).form.length = 1 := rfl

@[simp] theorem FrameSym.zeroRun_form_length (c : Nat) : (FrameSym.zeroRun c).form.length = 3 := by
  simp [FrameSym.form]

/-! ### LOAD_WAVES -/

/-- While a port loads, LOAD_WAVES goes on. -/
theorem Device.checkLoads_loading (d : Device) (h : allPorts.any (fun p => (d.port p).state == .loading) = true) :
    d.checkLoads = d := by
  unfold Device.checkLoads
  split <;> simp_all

/-- The order in execution is no LOAD_WAVES: nothing ends. -/
theorem Device.checkLoads_idle (d : Device) (h : d.ou.exec = none) : d.checkLoads = d := by
  unfold Device.checkLoads
  rw [h]

/-- No port loads: LOAD_WAVES ends with the port status words. -/
theorem Device.checkLoads_ended (d : Device) (o : OrderHeader) (h : d.ou.exec = some (.loadWaves o))
    (hp : allPorts.any (fun p => (d.port p).state == .loading) = false) :
    d.checkLoads = d.finishExec o .ok d.statusWords := by
  unfold Device.checkLoads
  rw [h]; simp [hp]

/-! ### Messages of a head -/

/-- Bytes that are no message of the kind are ignored. -/
theorem Device.receive_ignored {α : Type} (d : Device) (p : PortIx) (first : Byte) (code : Option Byte)
    (pick : HeadMessage → Option α) (act : α → Device → Device) (h : (headMessage first code).bind pick = none) :
    d.receive p first code pick act = d := by
  unfold Device.receive
  rw [h]

/-- Bytes that are a message of the kind are heard. -/
theorem Device.receive_heard {α : Type} (d : Device) (p : PortIx) (first : Byte) (code : Option Byte)
    (pick : HeadMessage → Option α) (act : α → Device → Device) (x : α) (h : (headMessage first code).bind pick = some x) :
    d.receive p first code pick act = d.hear p (act x) := by
  unfold Device.receive
  rw [h]

/-! ### The order of tokens -/

theorem insertToken_perm (t : Token) (l : List Token) : (insertToken t l).Perm (t :: l) := by
  induction l with
  | nil => exact List.Perm.refl _
  | cons u rest ih =>
    unfold insertToken
    split
    · exact List.Perm.refl _
    · exact (ih.cons u).trans (List.Perm.swap t u rest)

/-- Row order loses no token and makes none. -/
theorem sortTokens_perm (l : List Token) : (sortTokens l).Perm l := by
  suffices h : ∀ acc, (l.foldl (fun a t => insertToken t a) acc).Perm (acc ++ l) from by
    simpa [sortTokens] using h []
  induction l with
  | nil => intro acc; simp
  | cons t rest ih =>
    intro acc
    refine (ih _).trans ?_
    refine ((insertToken_perm t acc).append_right rest).trans ?_
    exact List.perm_middle.symm

end Sys2Proof.Machine
end

