-- ==== Sys2Proof/Laws/Quiet.lean ====
section
/-! SUPPORT. What everything that a row, a page or an edge sets off inside the device can do, said once: the relation `Quiet`, kept by
every such operation, lists what stays. Proofs about commands cite it and never unfold the operations. -/

namespace Sys2Proof.Machine

/-- `b` differs from `a` only where firing, pages and ports act: memory, chain port, buffers, tables, landing, clock, masks, waiting
writes and window reads, the decoder and the web's registers are the same; the page queue is no longer; rings that fitted fit;
the silent counters are the same. -/
structure Device.Quiet (a b : Device) : Prop where
  resetPin : b.resetPin = a.resetPin
  now : b.now = a.now
  freeCount : b.freeCount = a.freeCount
  mem : b.mem = a.mem
  cp : b.cp = a.cp
  ib : b.ib = a.ib
  tab : b.tab = a.tab
  le : b.le = a.le
  exec : b.ou.exec = a.ou.exec
  memory : b.ou.memory = a.ou.memory
  devMask : b.ou.devMask = a.ou.devMask
  headMasks : b.ou.headMasks = a.ou.headMasks
  writeQ : b.ls.writeQ = a.ls.writeQ
  window : b.ls.window = a.ls.window
  service : b.ls.service = none ↔ a.ls.service = none
  fetchQ : b.ls.fetchQ = [] ↔ a.ls.fetchQ = []
  chA : b.pu.chA = a.pu.chA
  chB : b.pu.chB = a.pu.chB
  filterOld : b.pu.filterOld = a.pu.filterOld
  pair : b.pu.pair = a.pu.pair
  debt : b.pu.debt = a.pu.debt
  phase : b.pu.phase = a.pu.phase
  count : b.pu.count = a.pu.count
  queue : b.pc.queue.length ≤ a.pc.queue.length
  rings : a.ringsFit → b.ringsFit
  silent : ∀ p, (b.port p).silent = (a.port p).silent

theorem Device.Quiet.refl (a : Device) : a.Quiet a := by constructor <;> simp

theorem Device.Quiet.trans {a b c : Device} (h : a.Quiet b) (k : b.Quiet c) : a.Quiet c where
  resetPin := k.resetPin.trans h.resetPin
  now := k.now.trans h.now
  freeCount := k.freeCount.trans h.freeCount
  mem := k.mem.trans h.mem
  cp := k.cp.trans h.cp
  ib := k.ib.trans h.ib
  tab := k.tab.trans h.tab
  le := k.le.trans h.le
  exec := k.exec.trans h.exec
  memory := k.memory.trans h.memory
  devMask := k.devMask.trans h.devMask
  headMasks := k.headMasks.trans h.headMasks
  writeQ := k.writeQ.trans h.writeQ
  window := k.window.trans h.window
  service := k.service.trans h.service
  fetchQ := k.fetchQ.trans h.fetchQ
  chA := k.chA.trans h.chA
  chB := k.chB.trans h.chB
  filterOld := k.filterOld.trans h.filterOld
  pair := k.pair.trans h.pair
  debt := k.debt.trans h.debt
  phase := k.phase.trans h.phase
  count := k.count.trans h.count
  queue := k.queue.trans h.queue
  rings := fun r => k.rings (h.rings r)
  silent := fun p => (k.silent p).trans (h.silent p)

/-- A fold of quiet steps is quiet. -/
theorem Device.Quiet.foldl {β : Type} (f : Device → β → Device) (hf : ∀ d x, Device.Quiet d (f d x)) (l : List β) (d : Device) :
    d.Quiet (l.foldl f d) := by
  induction l generalizing d with
  | nil => exact .refl d
  | cons x l ih => exact (hf d x).trans (ih _)

/-! ### Events, counters, single fields -/

theorem Device.quiet_setEvent (d : Device) (e : DevEvent) : d.Quiet (d.setEvent e) := by constructor <;> first | exact id | simp [Device.port]
theorem Device.quiet_setHeadEvent (d : Device) (p : PortIx) (e : HeadEvent) : d.Quiet (d.setHeadEvent p e) := by
  constructor <;> first | exact id | simp [Device.port]
theorem Device.quiet_count (d : Device) (c : DevCounter) (n : Nat) : d.Quiet (d.count c n) := by
  constructor <;> first | exact id | simp [Device.port]
theorem Device.quiet_countHead (d : Device) (p : PortIx) (c : HeadCounter) (n : Nat) : d.Quiet (d.countHead p c n) := by
  constructor <;> first | exact id | simp [Device.port]
theorem Device.quiet_modPipe (d : Device) (p : PortIx) (r : RowIx) (f : Pipeline → Pipeline) : d.Quiet (d.modPipe p r f) := by
  constructor <;> first | exact id | simp [Device.port]
theorem Device.quiet_modRowPos (d : Device) (p : PortIx) (r : RowIx) (f : RowPosition → RowPosition) :
    d.Quiet (d.modRowPos p r f) := by constructor <;> first | exact id | simp [Device.port]
theorem Device.quiet_modPort (d : Device) (p : PortIx) (f : HeadPort → HeadPort) (hf : ∀ hp, (f hp).silent = hp.silent) :
    d.Quiet (d.modPort p f) := by
  constructor <;> first | exact id | simp [Device.port]
  intro q
  rw [vget_vmod]
  split <;> simp [hf]

/-- Page Control changed without a longer page queue. -/
theorem Device.quiet_pc (d : Device) (pc : PageControl) (h : pc.queue.length ≤ d.pc.queue.length) : d.Quiet { d with pc := pc } := by
  constructor <;> first | exact id | simp [Device.port, h]

/-! ### Rings -/

/-- A ring that grows by no slot and keeps its capacity. -/
def Ring.Within (g h : Ring) : Prop := h.slots.length ≤ g.slots.length ∧ h.capacity = g.capacity

theorem Device.quiet_modRing (d : Device) (p : PortIx) (f : Ring → Ring) (hf : ∀ g : Ring, g.Within (f g)) : d.Quiet (d.modRing p f) := by
  constructor <;> try simp [Device.port]
  intro h q
  have hq := h q
  simp only [Device.ring, Device.modRing_rings, vget_vmod] at hq ⊢
  split
  · next e =>
    subst e
    cases hr : vget d.ls.rings q with
    | none => simp
    | some g =>
      rw [hr] at hq
      have := hf g
      simp only [Option.all_some, decide_eq_true_eq, Option.map_some] at hq ⊢
      unfold Ring.Within at this
      omega
  · exact hq

theorem Ring.within_mark (g : Ring) (pc : PageControl) (r : RowIx) (pl : PageLine) : g.Within (g.mark pc r pl) := by
  simp [Ring.Within, Ring.mark]

theorem Ring.within_release (g : Ring) : g.Within g.release := by
  refine ⟨?_, rfl⟩
  simp only [Ring.release]
  exact (List.dropWhile_sublist _).length_le

theorem Ring.within_land (g : Ring) (pl : PageLine) : g.Within (g.land pl) := by simp [Ring.Within, Ring.land]

theorem Ring.Within.trans {a b c : Ring} (h : a.Within b) (k : b.Within c) : a.Within c :=
  ⟨k.1.trans h.1, k.2.trans h.2⟩

theorem Device.quiet_doneNotice (d : Device) (p : PortIx) (r : RowIx) (pl : PageLine) : d.Quiet (d.doneNotice p r pl) :=
  d.quiet_modRing p _ fun g => (g.within_mark d.pc r pl).trans (Ring.within_release _)

theorem Device.quiet_raiseFetch (d : Device) (p : PortIx) (r : RowIx) (pl : PageLine) (g : Ring) (i : Nat) :
    d.Quiet (d.raiseFetch p r pl g i) := by constructor <;> first | exact id | simp [Device.port]

theorem LineStore.killFetches_rings (ls : LineStore) (sel : PortIx → RowIx → Bool) : (ls.killFetches sel).rings = ls.rings := rfl

/-- Fetches of rows that stop have their data dropped: no request appears or goes. -/
theorem Device.quiet_killFetches (d : Device) (sel : PortIx → RowIx → Bool) (rf : Vector (Vector Pipeline 4) 16) :
    d.Quiet { d with rf := rf, ls := d.ls.killFetches sel } := by
  constructor <;> first | exact id | simp [Device.port, LineStore.killFetches]

/-! ### Ports -/

theorem Device.quiet_raiseToken (d : Device) (p : PortIx) (t : Token) : d.Quiet (d.raiseToken p t) := by
  unfold Device.raiseToken
  split
  · exact d.quiet_modPort p _ fun _ => rfl
  · exact .refl d

theorem Device.quiet_rowsLeaveReady (d : Device) (p : PortIx) : d.Quiet (d.rowsLeaveReady p) := d.quiet_killFetches _ _

theorem Device.quiet_leaveReady (d : Device) (p : PortIx) (st : PortState) : d.Quiet (d.leaveReady p st) := by
  unfold Device.leaveReady
  exact (d.quiet_modPort p _ (by intro; rfl)).trans (Device.quiet_rowsLeaveReady _ _)

theorem Device.quiet_quenchPort (d : Device) (p : PortIx) (st : PortState) : d.Quiet (d.quenchPort p st) := by
  unfold Device.quenchPort
  have h := d.quiet_modPort p (fun hp => hp.quench st) (fun _ => rfl)
  split
  · exact h.trans (Device.quiet_rowsLeaveReady _ _)
  · exact h

theorem Device.quiet_autoPark (d : Device) (p : PortIx) : d.Quiet (d.autoPark p) := by
  unfold Device.autoPark
  split
  · split
    · exact d.quiet_leaveReady p _
    · exact d.quiet_modPort p _ fun _ => rfl
    · exact d.quiet_modPort p _ fun _ => rfl
    · exact .refl d
    · exact .refl d
    · exact .refl d
  · exact .refl d

theorem Device.quiet_goSilent (d : Device) (p : PortIx) : d.Quiet (d.goSilent p) :=
  (d.quiet_setHeadEvent p _).trans (Device.quiet_countHead _ _ _ _)

theorem Device.quiet_restartTickle (d : Device) (p : PortIx) : d.Quiet (d.restartTickle p) := by
  unfold Device.restartTickle
  split
  · exact d.quiet_modPort p _ fun _ => rfl
  · exact .refl d

theorem Device.quiet_startLoad (d : Device) (p : PortIx) : d.Quiet (d.startLoad p) := by
  unfold Device.startLoad
  split
  · exact d.quiet_modPort p _ fun _ => rfl
  · exact (d.quiet_leaveReady p _).trans (Device.quiet_modPort _ p _ fun _ => rfl)
  · exact .refl d
  · exact .refl d
  · exact .refl d
  · exact .refl d

theorem HeadPort.assemble_silent (hp : HeadPort) (h : HeadDescr) (r : RowIx) (t : Pos) (codes : Option (List Nat)) :
    (hp.assemble h r t codes).2.silent = hp.silent := by
  unfold HeadPort.assemble
  dsimp only
  split
  · split <;> rfl
  · split <;> rfl
  · rfl
  · rfl
  · rfl

theorem HeadPort.takeFrame_silent (hp : HeadPort) (h : HeadDescr) (r : RowIx) (t : Pos) (codes : Option (List Nat)) :
    (hp.takeFrame h r t codes).silent = hp.silent := hp.assemble_silent h r t codes

/-! ### Rows -/

theorem Device.quiet_resolveFetch (d : Device) (p : PortIx) (r : RowIx) : d.Quiet (d.resolveFetch p r) := by
  unfold Device.resolveFetch
  dsimp only
  split
  · split
    · exact (d.quiet_modPipe p r _).trans (Device.quiet_raiseFetch _ _ _ _ _ _)
    · exact d.quiet_modPipe p r _
    · exact d.quiet_modPipe p r _
  · exact .refl d

theorem Device.quiet_fillStage (d : Device) (p : PortIx) (r : RowIx) : d.Quiet (d.fillStage p r) := by
  unfold Device.fillStage
  split
  · dsimp only
    split
    · exact (d.quiet_modPipe p r _).trans (Device.quiet_resolveFetch _ _ _)
    · exact (d.quiet_modPipe p r _).trans (Device.quiet_modPipe _ _ _ _)
  · exact .refl d

theorem Device.quiet_handOver (d : Device) (p : PortIx) (r : RowIx) : d.Quiet (d.handOver p r) := by
  unfold Device.handOver
  split
  · next t codes hs hl =>
    split
    · have h := d.quiet_modPort p (fun hp => hp.takeFrame (d.head p) r t codes) fun hp => hp.takeFrame_silent _ r t codes
      exact (h.trans (Device.quiet_modPipe _ p r _)).trans (Device.quiet_fillStage _ p r)
    · exact .refl d
  · exact .refl d

theorem Device.quiet_prepare (d : Device) (p : PortIx) (r : RowIx) : d.Quiet (d.prepare p r) :=
  (d.quiet_fillStage p r).trans (Device.quiet_handOver _ _ _)

theorem Device.quiet_prepareAll (d : Device) : d.Quiet d.prepareAll :=
  Device.Quiet.foldl (fun (d : Device) (pr : PortIx × RowIx) => d.prepare pr.1 pr.2) (fun d x => d.quiet_prepare x.1 x.2) _ d

theorem Device.quiet_fire (d : Device) (p : PortIx) (r : RowIx) : d.Quiet (d.fire p r) :=
  (((d.quiet_raiseToken p _).trans (Device.quiet_modPipe _ _ _ _)).trans (Device.quiet_countHead _ _ _ _)).trans
    (Device.quiet_restartTickle _ _)

theorem PageControl.addLost_length (pc : PageControl) (tag : Tag) (a b : Nat) :
    (pc.addLost tag a b).queue.length = pc.queue.length := by
  unfold PageControl.addLost
  split <;> simp

theorem Device.quiet_reportLost (d : Device) (pl : Option PageLine) (a b : Nat) : d.Quiet (d.reportLost pl a b) := by
  unfold Device.reportLost
  split
  · exact d.quiet_pc _ (PageControl.addLost_length _ _ _ _).le
  · exact .refl d

theorem Device.quiet_skip (d : Device) (p : PortIx) (pl : Option PageLine) : d.Quiet (d.skip p pl) :=
  ((d.quiet_countHead p _ _).trans (Device.quiet_setHeadEvent _ _ _)).trans (Device.quiet_reportLost _ _ _ _)

theorem Device.quiet_starve (d : Device) (p : PortIx) (r : RowIx) (pl : Option PageLine) : d.Quiet (d.starve p r pl) := by
  unfold Device.starve
  have h := ((d.quiet_countHead p .starved 1).trans (Device.quiet_setHeadEvent _ p .starved)).trans
    (Device.quiet_reportLost _ pl 1 0)
  dsimp only
  split
  · exact h.trans ((Device.quiet_raiseToken _ _ _).trans (Device.quiet_modPipe _ _ _ _))
  · exact h
  · exact h

theorem Device.quiet_judgeLine (d : Device) (p : PortIx) (r : RowIx) (x : Pos) (pl : Option PageLine) :
    d.Quiet (d.judgeLine p r x pl) := by
  unfold Device.judgeLine
  dsimp only
  split
  · exact d.quiet_skip p pl
  · split
    · split
      · exact d.quiet_fire p r
      · exact d.quiet_modPipe p r _
    · exact d.quiet_starve p r pl

theorem Device.quiet_noticeAt (d : Device) (p : PortIx) (r : RowIx) (pl : Option PageLine) : d.Quiet (d.noticeAt p r pl) := by
  unfold Device.noticeAt
  split
  · exact d.quiet_doneNotice p r _
  · exact .refl d

theorem Device.quiet_firingEvent (d : Device) (p : PortIx) (r : RowIx) (x : Pos) (pl : Option PageLine) :
    d.Quiet (d.firingEvent p r x pl) := by
  unfold Device.firingEvent
  split
  · have h : d.Quiet (if (d.head p).testMode.fetches && pl.isNone then d else d.judgeLine p r x pl) := by
      split
      · exact .refl d
      · exact d.quiet_judgeLine p r x pl
    exact ((h.trans (Device.quiet_noticeAt _ p r pl)).trans (Device.quiet_modPipe _ p r _)).trans (Device.quiet_prepare _ p r)
  · split
    · exact d.quiet_noticeAt p r pl
    · exact .refl d

theorem Device.quiet_releaseHold (d : Device) (p : PortIx) (r : RowIx) : d.Quiet (d.releaseHold p r) :=
  (d.quiet_fire p r).trans (Device.quiet_handOver _ _ _)

theorem Device.quiet_rowSlotLanded (d : Device) (p : PortIx) (r : RowIx) (done : PageLine) :
    d.Quiet (d.rowSlotLanded p r done) := by
  unfold Device.rowSlotLanded
  split
  · split
    · split
      · exact (d.quiet_modPipe p r _).trans (Device.quiet_raiseFetch _ _ _ _ _ _)
      · exact .refl d
    · split
      · exact d.quiet_modPipe p r _
      · exact .refl d
  · exact .refl d

theorem Device.quiet_slotLanded (d : Device) (p : PortIx) (done : PageLine) : d.Quiet (d.slotLanded p done) :=
  Device.Quiet.foldl _ (fun d r => d.quiet_rowSlotLanded p r done) _ d

theorem Device.quiet_takeFetched (d : Device) (f : Fetch) (codes : List Nat) : d.Quiet (d.takeFetched f codes) := by
  unfold Device.takeFetched
  split
  · split
    · split
      · exact (d.quiet_modPipe _ _ _).trans (Device.quiet_handOver _ _ _)
      · exact (d.quiet_modPipe _ _ _).trans (Device.quiet_prepare _ _ _)
    · exact .refl d
  · exact .refl d

theorem Device.quiet_frameDone (d : Device) (p : PortIx) (f : Frame) : d.Quiet (d.frameDone p f) := by
  unfold Device.frameDone
  split
  · split
    · exact d.quiet_raiseToken p _
    · exact .refl d
  · split
    · split
      · exact d.quiet_modPipe _ _ _
      · exact ((d.quiet_raiseToken p _).trans (Device.quiet_modPipe _ _ _ _)).trans (Device.quiet_handOver _ _ _)
    · exact .refl d
    · exact .refl d

theorem Device.quiet_rowModeChanged (d : Device) (p : PortIx) (r : RowIx) : d.Quiet (d.rowModeChanged p r) := by
  unfold Device.rowModeChanged
  split
  · exact (d.quiet_modPipe p r _).trans (Device.quiet_prepare _ p r)
  · exact .refl d

theorem Device.quiet_clearIfDisabled (d : Device) (p : PortIx) (r : RowIx) : d.Quiet (d.clearIfDisabled p r) := by
  unfold Device.clearIfDisabled
  split
  · exact .refl d
  · exact d.quiet_modPipe p r _

theorem Device.quiet_clearDisabledRows (d : Device) (p : PortIx) : d.Quiet (d.clearDisabledRows p) :=
  Device.Quiet.foldl (fun (e : Device) (r : RowIx) => e.clearIfDisabled p r) (fun e r => e.quiet_clearIfDisabled p r) _ d

theorem Device.quiet_rowEndJob (k : Bool) (d : Device) (p : PortIx) (r : RowIx) : d.Quiet (d.rowEndJob k p r) := by
  unfold Device.rowEndJob
  dsimp only
  split
  · split
    · exact d.quiet_modPipe p r _
    · exact (d.quiet_raiseToken p _).trans (Device.quiet_modPipe _ p r _)
  · exact d.quiet_modPipe p r _
  · exact d.quiet_modPipe p r _

/-- Frames outlive their job, and every fetch's data will be dropped. -/
theorem Device.quiet_outlive (d : Device) (sel : PortIx → RowIx → Bool) :
    d.Quiet { d with hp := vmap HeadPort.outliveFrames d.hp, ls := d.ls.killFetches sel } := by
  constructor <;> first | exact id | simp [Device.port, LineStore.killFetches, HeadPort.outliveFrames]

theorem Device.quiet_endPipelines (d : Device) (k : Bool) : d.Quiet (d.endPipelines k) := by
  unfold Device.endPipelines
  have h := Device.Quiet.foldl (fun d (pr : PortIx × RowIx) => d.rowEndJob k pr.1 pr.2)
    (fun d x => d.quiet_rowEndJob k x.1 x.2) allPortRows d
  exact h.trans (Device.quiet_outlive _ _)

/-! ### Pages -/

theorem Device.quiet_calmRows (d : Device) : d.Quiet d.calmRows := by constructor <;> first | exact id | simp [Device.port]

/-- The passage into CONFIG itself. -/
theorem Device.quiet_toConfig (d : Device) : d.Quiet { d with pc := { d.pc with job := .config, qualifier := none } } :=
  d.quiet_pc _ le_rfl

theorem Device.quiet_endStopping (d : Device) : d.Quiet d.endStopping :=
  ((d.quiet_calmRows.trans (Device.quiet_endPipelines _ true)).trans (Device.quiet_setEvent _ _)).trans
    (Device.quiet_toConfig _)

theorem Device.quiet_advanceAnchor (d : Device) (k : Trigger) : d.Quiet (d.advanceAnchor k) := by
  unfold Device.advanceAnchor
  split
  · exact d.quiet_pc _ le_rfl
  · exact .refl d
  · exact .refl d

theorem Device.quiet_triggerWithoutPage (d : Device) (k : Trigger) : d.Quiet (d.triggerWithoutPage k) := by
  unfold Device.triggerWithoutPage
  split
  · exact ((d.quiet_setEvent _).trans (Device.quiet_count _ _ _)).trans (Device.quiet_advanceAnchor _ _)
  · exact (d.quiet_setEvent _).trans (Device.quiet_count _ _ _)
  · exact (d.quiet_setEvent _).trans (Device.quiet_count _ _ _)

theorem length_bindOldest (b : Pos) (q : List PageRec) : (bindOldest b q).length = q.length := by
  induction q with
  | nil => rfl
  | cons x q ih =>
    unfold bindOldest
    split
    · rfl
    · simp [ih]

theorem Device.quiet_bindPage (d : Device) (q : PageRec) (b : Pos) : d.Quiet (d.bindPage q b) := by
  have h : ∀ pc : PageControl, pc.queue.length ≤ d.pc.queue.length → d.Quiet (Device.prepareAll { d with pc := pc }) :=
    fun pc hp => (d.quiet_pc pc hp).trans (Device.quiet_prepareAll _)
  unfold Device.bindPage
  dsimp only
  apply h
  exact (length_bindOldest _ _).le

theorem Device.quiet_trigger (d : Device) (k : Trigger) : d.Quiet (d.trigger k).1 := by
  unfold Device.trigger
  split
  · exact d.quiet_triggerWithoutPage k
  · next q _ =>
    dsimp only
    split
    · exact ((d.quiet_setEvent _).trans (Device.quiet_count _ _ _)).trans (Device.quiet_advanceAnchor _ _)
    · simpa only using d.quiet_bindPage q (d.pu.count + BitVec.ofNat 32 d.tab.job.offset)

theorem Device.quiet_globalLineEvent (d : Device) : d.Quiet d.globalLineEvent := by
  unfold Device.globalLineEvent
  split
  · split
    · exact d.quiet_trigger _
    · exact .refl d
  · exact .refl d

theorem Device.quiet_finishPages (d : Device) : d.Quiet d.finishPages := by
  unfold Device.finishPages
  dsimp only
  split
  · exact .refl d
  · have h : ∀ pc : PageControl, pc.queue.length ≤ d.pc.queue.length → ∀ n,
        d.Quiet ((({ d with pc := pc }).setEvent .pageDone).count .pagesDone n) := fun pc hp n =>
      ((d.quiet_pc pc hp).trans (Device.quiet_setEvent _ _)).trans (Device.quiet_count _ _ _)
    split
    · exact (h _ (List.dropWhile_sublist _).length_le _).trans (Device.quiet_endStopping _)
    · exact h _ (List.dropWhile_sublist _).length_le _

theorem Device.quiet_clearLimit (d : Device) : d.Quiet d.clearLimit := by
  unfold Device.clearLimit
  split
  · exact d.quiet_pc _ le_rfl
  · exact .refl d

theorem Device.quiet_pageEvent (d : Device) (x : Pos) : d.Quiet (d.pageEvent x) := by
  unfold Device.pageEvent
  exact ((d.quiet_pc _ (by simp)).trans (Device.quiet_finishPages _)).trans (Device.quiet_clearLimit _)

/-! ### Row line events -/

theorem Device.quiet_rowLineEvent (d : Device) (p : PortIx) (r : RowIx) (x : Pos) : d.Quiet (d.rowLineEvent p r x) :=
  ((d.quiet_modRowPos p r _).trans (Device.quiet_firingEvent _ _ _ _ _)).trans (Device.quiet_pageEvent _ _)

theorem Device.quiet_cross (d : Device) (p : PortIx) (r : RowIx) (x : Pos) : d.Quiet (d.cross p r x) := by
  unfold Device.cross
  split
  · exact .refl d
  · split
    · exact d.quiet_modRowPos p r _
    · exact (d.quiet_modRowPos p r _).trans (Device.quiet_rowLineEvent _ _ _ _)

theorem Device.quiet_timerExpiry (d : Device) (p : PortIx) (r : RowIx) : d.Quiet (d.timerExpiry p r) := by
  unfold Device.timerExpiry
  split
  · split
    · exact (d.quiet_modRowPos p r _).trans (Device.quiet_rowLineEvent _ _ _ _)
    · exact .refl d
  · exact .refl d

theorem Device.quiet_armRow (d : Device) (p : PortIx) (r : RowIx) : d.Quiet (d.armRow p r) := by
  unfold Device.armRow
  split
  · exact (d.quiet_modRowPos p r _).trans (Device.quiet_timerExpiry _ p r)
  · exact .refl d

theorem Device.quiet_armTimers (d : Device) : d.Quiet d.armTimers :=
  Device.Quiet.foldl (fun (e : Device) (pr : PortIx × RowIx) => e.armRow pr.1 pr.2) (fun e x => e.quiet_armRow x.1 x.2) _ d

/-! ### Tokens in row order -/

theorem Device.inRowOrder_port (a d : Device) (p : PortIx) :
    (a.inRowOrder d).port p = (d.port p).sortBehind (a.port p).tokens.length := by
  simp [Device.inRowOrder, Device.port, vget]

/-- Sorting tokens changes nothing but the order of a port's tokens. -/
theorem Device.quiet_inRowOrder (a d : Device) : d.Quiet (a.inRowOrder d) := by
  constructor <;> first | exact id | simp [Device.inRowOrder]
  intro p
  have h := congrArg HeadPort.silent (a.inRowOrder_port d p)
  exact h

theorem mem_insertToken (t u : Token) (l : List Token) : u ∈ insertToken t l ↔ u = t ∨ u ∈ l := by
  induction l with
  | nil => simp [insertToken]
  | cons x l ih =>
    unfold insertToken
    split
    · simp
    · simp [ih]
      tauto

/-- Sorting keeps every token. -/
theorem mem_sortTokens (u : Token) (l : List Token) : u ∈ sortTokens l ↔ u ∈ l := by
  have h : ∀ (l acc : List Token), u ∈ l.foldl (fun l t => insertToken t l) acc ↔ u ∈ acc ∨ u ∈ l := by
    intro l
    induction l with
    | nil => simp
    | cons x l ih =>
      intro acc
      simp [ih, mem_insertToken]
      tauto
  simpa [sortTokens] using h l []

theorem insertToken_nil (t : Token) : insertToken t [] = [t] := rfl

/-- Of no token, or one, there is nothing to sort. -/
theorem sortTokens_short (l : List Token) (h : l.length ≤ 1) : sortTokens l = l := by
  match l, h with
  | [], _ => rfl
  | [_], _ => rfl

/-- Where an instant raised at most one token at a port, its tokens stay as they are. -/
theorem HeadPort.sortBehind_short (hp : HeadPort) (n : Nat) (h : hp.tokens.length ≤ n + 1) : hp.sortBehind n = hp := by
  unfold HeadPort.sortBehind
  rw [sortTokens_short _ (by rw [List.length_drop]; omega), List.take_append_drop]

end Sys2Proof.Machine
end

