-- ==== Sys2Proof/Laws/Settle.lean ====
section
/-! SUPPORT. How a command acts and ends: the RESET pin's gate, and the arbiters' choices (R17, R93, R94) with all they can change. -/

namespace Sys2Proof.Machine

/-! ### Acting -/

theorem State.act_released (s : State) (f : Device → Device) (h : s.dev.resetPin = false) :
    s.act f = .next { s with dev := f s.dev } := by simp [State.act, h]

theorem State.act_held (s : State) (f : Device → Device) (h : s.dev.resetPin = true) : s.act f = .next s := by
  simp [State.act, h]

theorem State.run_released (s : State) (f : Device → Device) (h : s.dev.resetPin = false) :
    s.run f = .next { s with dev := (f s.dev).settle } := s.act_released _ h

theorem State.run_held (s : State) (f : Device → Device) (h : s.dev.resetPin = true) : s.run f = .next s := s.act_held _ h

/-! ### The up-lane arbiter (R17) -/

/-- The arbiter changes nothing but which source is being sent. -/
theorem Device.upArbitrate_eq (d : Device) :
    d.upArbitrate = { d with cp := { d.cp with upSending := d.upArbitrate.cp.upSending } } := by
  unfold Device.upArbitrate
  split
  · rfl
  · next h => split <;> first | rw [← h] | rfl

theorem Device.upArbitrate_busy (d : Device) (x : UpSource) (h : d.cp.upSending = some x) : d.upArbitrate = d := by
  simp [Device.upArbitrate, h]

theorem Device.upArbitrate_none (d : Device) (h : d.cp.replies = []) (k : d.cp.returnQ = []) : d.upArbitrate = d := by
  unfold Device.upArbitrate
  split
  · rfl
  · simp [h, k]

theorem Device.upArbitrate_settled (d : Device) :
    d.upArbitrate.cp.upSending = none → d.upArbitrate.cp.replies = [] ∧ d.upArbitrate.cp.returnQ = [] := by
  unfold Device.upArbitrate
  split
  · next h => simp [h]
  · split <;> simp_all

/-! ### The memory arbiter (R94) -/

theorem Device.grant_busy (d : Device) (v : Service) (h : d.ls.service = some v) : d.grant = d := by simp [Device.grant, h]

theorem Device.grant_none (d : Device) (h : d.ls.fetchQ = []) (k : d.ls.writeQ = []) (l : d.ls.window = none) : d.grant = d := by
  unfold Device.grant
  split
  · rfl
  · simp [h, k, l]

/-- The grant changes the waiting requests and the one in service; a window read without a slot is answered (R97). -/
theorem Device.grant_eq (d : Device) :
    d.grant = { d with
      ls := { d.ls with fetchQ := d.grant.ls.fetchQ, writeQ := d.grant.ls.writeQ, window := d.grant.ls.window,
                        service := d.grant.ls.service }
      ou := { d.ou with exec := d.grant.ou.exec }
      cp := { d.cp with replies := d.grant.cp.replies } } := by
  unfold Device.grant
  split
  · rfl
  · split
    · rfl
    · split
      · rfl
      · split
        · unfold Device.grantWindow
          dsimp only
          split
          · rfl
          · split <;> rfl
        · rfl

theorem Device.grant_settled (d : Device) :
    d.grant.ls.service = none → d.grant.ls.fetchQ = [] ∧ d.grant.ls.writeQ = [] ∧ d.grant.ls.window = none := by
  unfold Device.grant
  split
  · next h => simp [h]
  · split
    · simp
    · split
      · simp
      · split
        · unfold Device.grantWindow
          dsimp only
          split
          · simp
          · split <;> simp_all
        · simp_all

/-! ### Both -/

/-- What the end of a command can change: the arbiters' queues and choices, and the answer to a window read without a slot. -/
theorem Device.settle_eq (d : Device) :
    d.settle = { d with
      ls := { d.ls with fetchQ := d.settle.ls.fetchQ, fetchRaised := [], writeQ := d.settle.ls.writeQ,
                        window := d.settle.ls.window, service := d.settle.ls.service }
      ou := { d.ou with exec := d.settle.ou.exec }
      cp := { d.cp with replies := d.settle.cp.replies, upSending := d.settle.cp.upSending } } := by
  unfold Device.settle
  rw [Device.upArbitrate_eq, Device.grant_eq]
  rfl

@[simp] theorem Device.settle_resetPin (d : Device) : d.settle.resetPin = d.resetPin := by rw [Device.settle_eq]
@[simp] theorem Device.settle_now (d : Device) : d.settle.now = d.now := by rw [Device.settle_eq]
@[simp] theorem Device.settle_freeCount (d : Device) : d.settle.freeCount = d.freeCount := by rw [Device.settle_eq]
@[simp] theorem Device.settle_mem (d : Device) : d.settle.mem = d.mem := by rw [Device.settle_eq]
@[simp] theorem Device.settle_ib (d : Device) : d.settle.ib = d.ib := by rw [Device.settle_eq]
@[simp] theorem Device.settle_tab (d : Device) : d.settle.tab = d.tab := by rw [Device.settle_eq]
@[simp] theorem Device.settle_le (d : Device) : d.settle.le = d.le := by rw [Device.settle_eq]
@[simp] theorem Device.settle_pu (d : Device) : d.settle.pu = d.pu := by rw [Device.settle_eq]
@[simp] theorem Device.settle_pc (d : Device) : d.settle.pc = d.pc := by rw [Device.settle_eq]
@[simp] theorem Device.settle_rf (d : Device) : d.settle.rf = d.rf := by rw [Device.settle_eq]
@[simp] theorem Device.settle_hp (d : Device) : d.settle.hp = d.hp := by rw [Device.settle_eq]
@[simp] theorem Device.settle_rings (d : Device) : d.settle.ls.rings = d.ls.rings := by rw [Device.settle_eq]
@[simp] theorem Device.settle_chainId (d : Device) : d.settle.cp.chainId = d.cp.chainId := by rw [Device.settle_eq]
@[simp] theorem Device.settle_orderQ (d : Device) : d.settle.cp.orderQ = d.cp.orderQ := by rw [Device.settle_eq]
@[simp] theorem Device.settle_returnQ (d : Device) : d.settle.cp.returnQ = d.cp.returnQ := by rw [Device.settle_eq]
@[simp] theorem Device.settle_returnRx (d : Device) : d.settle.cp.returnRx = d.cp.returnRx := by rw [Device.settle_eq]

/-- After every settling both arbiters have chosen. -/
theorem Device.settled_settle (d : Device) : d.settle.settled := by
  refine ⟨?_, ?_, ?_⟩
  · rw [Device.settle_eq]
  · unfold Device.settle
    rw [Device.upArbitrate_eq]
    exact Device.grant_settled _
  · exact Device.upArbitrate_settled _

/-- A device whose arbiters have chosen is left as it is. -/
theorem Device.settle_of_settled (d : Device) (h : d.settled) : d.settle = d := by
  have hj : d.joinFetches = d := by
    unfold Device.joinFetches
    rw [h.1, List.append_nil]
    conv => rhs; rw [show d = { d with ls := { d.ls with fetchRaised := [] } } by rw [← h.1]]
  unfold Device.settle
  rw [hj]
  have hg : d.grant = d := by
    cases hs : d.ls.service with
    | some v => exact d.grant_busy v hs
    | none =>
      have := h.2.1 hs
      exact d.grant_none this.1 this.2.1 this.2.2
  rw [hg]
  cases hu : d.cp.upSending with
  | some v => exact d.upArbitrate_busy v hu
  | none =>
    have := h.2.2 hu
    exact d.upArbitrate_none this.1 this.2

/-- Reply places in use are no more after settling. -/
theorem Device.settle_places (d : Device) :
    d.settle.cp.replies.length + Exec.reserved d.settle.ou.exec = d.cp.replies.length + Exec.reserved d.ou.exec := by
  have hu : ∀ e : Device, e.upArbitrate.cp.replies = e.cp.replies ∧ e.upArbitrate.ou = e.ou := by
    intro e
    rw [Device.upArbitrate_eq]
    exact ⟨rfl, rfl⟩
  unfold Device.settle
  rw [(hu _).1, (hu _).2]
  have hg : ∀ e : Device, e.grant.cp.replies.length + Exec.reserved e.grant.ou.exec =
      e.cp.replies.length + Exec.reserved e.ou.exec := by
    intro e
    unfold Device.grant
    split
    · rfl
    · split
      · rfl
      · split
        · rfl
        · split
          · unfold Device.grantWindow
            dsimp only
            split
            · rfl
            · split
              · next h => simp [h, Exec.reserved, Device.finishExec, Device.reply, Device.pushReply]
              · rfl
          · rfl
  exact hg _

end Sys2Proof.Machine
end

