-- ==== Sys2Proof/Laws/Replies.lean ====
section
/-! SUPPORT. How an order is taken and answered on a working device (R14, R15, R17, R22, R24), said once for every order. -/

namespace Sys2Proof.Machine

/-- Where the memory port needs no choice, a command ends with the up lane's choice alone. -/
theorem Device.settle_quietPort (d : Device) (h : d.ls.fetchRaised = [])
    (k : d.ls.service = none → d.ls.fetchQ = [] ∧ d.ls.writeQ = [] ∧ d.ls.window = none) : d.settle = d.upArbitrate := by
  have hj : d.joinFetches = d := by
    unfold Device.joinFetches
    rw [h, List.append_nil]
    conv => rhs; rw [show d = { d with ls := { d.ls with fetchRaised := [] } } by rw [← h]]
  unfold Device.settle
  rw [hj]
  cases hs : d.ls.service with
  | some v => rw [d.grant_busy v hs]
  | none => rw [d.grant_none (k hs).1 (k hs).2.1 (k hs).2.2]

/-- With a reply waiting and nothing in the return buffer of a free up lane, the arbiter sends the reply queue. -/
theorem Device.upArbitrate_replied (d : Device) (h : d.cp.replies ≠ []) (k : d.cp.upSending = none → d.cp.returnQ = []) :
    d.upArbitrate = { d with cp := { d.cp with upSending := some (d.cp.upSending.getD .replyQueue) } } := by
  unfold Device.upArbitrate
  split
  · next x hx =>
    simp only [hx, Option.getD_some]
    rw [← hx]
  · next hx =>
    rw [k hx]
    cases hr : d.cp.replies with
    | nil => exact absurd hr h
    | cons a l => simp [hx]

/-- A reply filled on a device whose arbiters stand as those of a settled one: the place is filled, and a free up lane sends it. -/
theorem Device.settle_pushReply (e d : Device) (hd : d.settled) (hl : e.ls = d.ls) (hq : e.cp.returnQ = d.cp.returnQ)
    (hu : e.cp.upSending = d.cp.upSending) (h : OrderHeader) (st : Status) (body : List Word) (b : Bool) :
    (e.pushReply h st body b).settle = { e with cp := { e.cp with
      replies := e.cp.replies ++
        [{ source := e.cp.chainId, tag := h.tag, code := h.code, status := st, body := body, endsReset := b }]
      upSending := some (e.cp.upSending.getD .replyQueue) } } := by
  have h1 : (e.pushReply h st body b).ls = d.ls := hl
  have h2 : (e.pushReply h st body b).cp.returnQ = d.cp.returnQ := hq
  have h3 : (e.pushReply h st body b).cp.upSending = d.cp.upSending := hu
  rw [Device.settle_quietPort _ (by rw [h1]; exact hd.1) (by rw [h1]; exact hd.2.1),
    Device.upArbitrate_replied _ (by simp [Device.pushReply]) (by rw [h2, h3]; exact fun k => (hd.2.2 k).2)]
  rfl

/-- The device after the order at the front was taken. -/
abbrev Device.withoutFront (d : Device) (rest : List OrderPlace) : Device := { d with cp := { d.cp with orderQ := rest } }

theorem Device.takeable_offers (d : Device) (o : OrderParcel) (rest : List OrderPlace) (h : d.offers o rest) :
    d.takeable = some o := by
  obtain ⟨_, ho, he, hf⟩ := h
  unfold Device.takeable Device.freePlaces
  rw [he, ho]
  simp [Exec.reserved, Config.replyPlaces, hf]

/-- An order that is offered and of the kind a command takes: the command runs it on the device without it. -/
theorem State.run_takeOrder (s : State) (o : OrderParcel) (rest : List OrderPlace) (h : s.dev.offers o rest)
    (kind : OrderParcel → Bool) (run : OrderParcel → Device → Device) (hk : kind o = true) :
    s.run (fun d => d.takeOrder kind run) = .next { s with dev := (run o (s.dev.withoutFront rest)).settle } := by
  rw [State.run_released _ _ h.1.1]
  have ht := Device.takeable_offers _ _ _ h
  simp only [Device.takeOrder, ht, hk, if_true, h.2.1, List.tail_cons, Device.withoutFront]

/-- An order answered at once without any other effect (R22, R24). -/
theorem State.run_answered (s : State) (o : OrderParcel) (rest : List OrderPlace) (h : s.dev.offers o rest)
    (kind : OrderParcel → Bool) (run : OrderParcel → Device → Device) (hk : kind o = true) (st : Status) (body : List Word)
    (hr : run o (s.dev.withoutFront rest) = (s.dev.withoutFront rest).reply o.hdr st body) :
    s.run (fun d => d.takeOrder kind run) = .next (s.answering rest o.hdr st body) := by
  rw [State.run_takeOrder s o rest h kind run hk, hr, Device.reply, Device.settle_pushReply (s.dev.withoutFront rest) s.dev h.1.2 rfl rfl rfl]
  rfl

/-! ### NUMBER parcels (R9, R21) -/

/-- A good NUMBER parcel that is held is accepted at its end marker. -/
theorem Device.closeNumber_held (d : Device) (v : Byte) (bs : List Byte) (h : d.cp.rx = .number v true)
    (g : judgeEnd (numberHeaderBytes v) 0 bs = .good) : d.closeNumber bs = d.rxIdle.acceptNumber v := by
  simp [Device.closeNumber, h, g]

/-- A good NUMBER parcel that a RESET order discarded ends without effect. -/
theorem Device.closeNumber_discarded (d : Device) (v : Byte) (bs : List Byte) (h : d.cp.rx = .number v false)
    (g : judgeEnd (numberHeaderBytes v) 0 bs = .good) : d.closeNumber bs = d.rxIdle := by
  simp [Device.closeNumber, h, g]

/-- An end marker where no NUMBER parcel is open does nothing. -/
theorem Device.closeNumber_none (d : Device) (bs : List Byte) (h : ∀ v held, d.cp.rx ≠ .number v held) : d.closeNumber bs = d := by
  unfold Device.closeNumber
  split <;> simp_all

/-- A NUMBER parcel given whole is its header and then its end marker. -/
theorem Device.number_whole (d : Device) (v : Byte) (bs : List Byte) :
    d.number v (.whole bs) = (d.number v .opened).number v (.closed bs) := rfl

end Sys2Proof.Machine
end

