-- ==== Sys2Proof/Tests/Slice0.lean ====
section
/-! SUPPORT. Tests: the ill-formed terms, examples of the spec worked in the model, and for every statement with hypotheses a
state and operands that meet them. -/

open Sys2Proof Sys2Proof.Machine

namespace Sys2Proof.Tests

-- The kernel evaluations run one after another: side by side they take a thread each.
set_option Elab.async false

/-! ### Ill-formed terms -/

theorem test_lineIsNoBadKind : Instr.wellFormed (.badKindParcel 1) = false := by decide
theorem test_orderIsNoBadKind : Instr.wellFormed (.badKindParcel 2) = false := by decide
theorem test_numberIsNoBadKind : Instr.wellFormed (.badKindParcel 4) = false := by decide
theorem test_replyIsBadKind : Instr.wellFormed (.badKindParcel 3) = true := by decide
theorem test_abortNeedsOpenParcel : Instr.wellFormed (.downParcelAborted .between) = false := by decide
theorem test_ackIsNoOtherMessage : Instr.wellFormed (.ack 0 0x50) = false ∧ Instr.wellFormed (.ack 0 0x60) = false ∧
    Instr.wellFormed (.ack 0 0x43) = true := by decide
theorem test_waveAckIsNoOtherMessage : Instr.wellFormed (.waveAck 0 0x40) = false ∧ Instr.wellFormed (.waveAck 0 0x60) = false := by decide
theorem test_faultIsNoOtherMessage : Instr.wellFormed (.headFault 0 ⟨0x41, none⟩) = false ∧
    Instr.wellFormed (.headFault 0 ⟨0x53, some 1⟩) = false ∧ Instr.wellFormed (.headFault 0 ⟨0x60, none⟩) = true := by decide
theorem test_noWordSpellsCommand : decodeTableWord 8 0 = none := rfl

/-! ### Small states -/

/-- The device after reset. -/
def dev0 : Device := State.reset.dev

/-- A state with no command waiting. -/
def just (d : Device) : State := { dev := d, pending := [] }

/-- The device that a command leaves, or the device after reset where it stops. -/
def after (i : Instr) (d : Device) : Device :=
  match exec i (just d) with
  | .next t => t.dev
  | .fault _ => dev0
  | .refused _ => dev0

/-- The device with both chain lanes in sync. -/
def linked (d : Device) : Device := { d with cp := { d.cp with downSync := .inSync, returnSync := .inSync } }

/-- The address a command stops at, none where it goes on. -/
def stopsAt (i : Instr) (d : Device) : Option Nat :=
  match exec i (just d) with
  | .next _ => none
  | .fault (.absentMemory a) => some a
  | .refused _ => none

/-- An order with a code and a body, addressed to the device. -/
def order (code : Byte) (body : List Word) : OrderParcel :=
  { hdr := { dest := 0, tag := 7, code := code, words := BitVec.ofNat 8 body.length }, body := body }

/-- The device with one complete order waiting. -/
def holding (d : Device) (o : OrderParcel) : Device := { d with cp := { d.cp with orderQ := [.complete o] } }

/-- Body of a READ or READ_CLEAR. -/
def range (table start count : Nat) : List Word := [BitVec.ofNat 32 (table * 16777216 + start), BitVec.ofNat 32 count]

/-- Body of a WRITE. -/
def writing (table start : Nat) (data : List Word) : List Word := BitVec.ofNat 32 (table * 16777216 + start) :: data

/-- A head of two rows of sixteen nozzles. -/
def head : HeadDescr := { HeadDescr.default with enabled := true, rowCount := 2, nozzlesPerRow := 16, tickleMs := 1 }

/-- The device with a head described at port 0 and its port in a state, the return lane in sync. -/
def fitted (h : HeadDescr) (st : PortState) (d : Device) : Device :=
  { d with
    tab := { d.tab with heads := vset d.tab.heads 0 h }
    hp := vset d.hp 0 { HeadPort.reset .inSync with state := st } }

/-- A device ready for a job with one head. -/
def ready : Device := fitted head .ready dev0

/-- A job running with one head, START_JOB's reply sent. -/
def running : Device := after .upLaneParcelSent (after .startJob (holding ready (order 4 [])))

/-- A page record of four lines. -/
def page (tag : Tag) (st : PageState) : PageRec := { tag := tag, length := 4, state := st, starved := 0, skipped := 0 }

/-- A device with a page queue. -/
def queued (qs : List PageRec) (d : Device) : Device := { d with pc := { d.pc with queue := qs } }

/-- A device in a job state. -/
def inJob (j : JobState) (d : Device) : Device := { d with pc := { d.pc with job := j } }

/-- The header of a line of 32 one-bit pixels for plane 0. -/
def lineHdr (tag : Tag) (line : BitVec 24) : LineHeader :=
  { plane := 0, tag := tag, line := line, firstColumn := 0, countMinus1 := 31, depth := 1 }

/-- A slot of page 1. -/
def slot (line : Nat) (st : SlotState) : Slot := { tag := 1, line := line, state := st, done := .replicate 4 false }

/-- The device with slots in the ring of port 0. -/
def stored (slots : List Slot) (d : Device) : Device :=
  { d with ls := { d.ls with rings := vset d.ls.rings 0 (some { Ring.establish head with slots := slots }) } }

/-- The device with a request in service. -/
def serving (v : Service) (d : Device) : Device := { d with ls := { d.ls with service := some v } }

/-- The device with a row of port 0 set. -/
def piped (q : Pipeline) (d : Device) : Device := d.modPipe 0 0 (fun _ => q)

/-- A pipeline with a stage, a latch and a hold. -/
def pipe (stage : Stage) (latch : Latch) (hold : Option Pos) : Pipeline :=
  { stage := stage, missing := false, latch := latch, hold := hold, lastFire := 0 }

/-- The device at a tick. -/
def atTick (n : Nat) (d : Device) : Device := { d with now := n }

/-- The device with row 0 of port 0 followed, its timer armed for a position. -/
def timed (x : Pos) (d : Device) : Device :=
  d.modRowPos 0 0 (fun q => { q with timer := some { expiry := d.now, pending := x } })

/-- The device with the encoder's A level low or high for the filter time, the pair as given. -/
def edging (a b : Bool) (pair : Bool × Bool) (d : Device) : Device :=
  { d with
    now := 100
    pu := { d.pu with
      chA := if a = pair.1 then .settled a else { sampled := a, filtered := pair.1, since := some 96 }
      chB := if b = pair.2 then .settled b else { sampled := b, filtered := pair.2, since := some 96 }
      pair := pair } }

/-! ### The spec's examples -/

/-- The check value of R3's polynomial with this preset, order and inversion over "123456789". -/
theorem test_crcCheckValue : crc32 [0x31, 0x32, 0x33, 0x34, 0x35, 0x36, 0x37, 0x38, 0x39] = 0xFC891918 := by decide +kernel

/-- 04, section 4.3: the pixels of the 2-bit span 0xE4 0x70. -/
theorem test_pixels : (List.range 6).map (pixel [0xE4, 0x70] 2) = [3, 2, 1, 0, 1, 3] := by decide +kernel

/-- 09, section 9.4: the first PRBS codes. -/
theorem test_prbsCodes : (prbsCodes 16 (BitVec.allOnes 15)).1 = [0, 0, 0, 0, 0, 0, 0, 2, 0, 0, 0, 0, 0, 0, 3, 0] := by decide +kernel

/-- 09, section 9.4: row 0 of LADDER with K = 4 at t = 1,002. -/
theorem test_ladder : ladderCodes 4 2 4 0 1002 = [0, 2, 0, 2] := by decide +kernel

/-- 09, section 9.3: how runs of zeros are sent. -/
theorem test_zeroRuns : zeroSyms 7 = .replicate 7 (.code 0) ∧ zeroSyms 8 = [.zeroRun 0] ∧
    zeroSyms 270 = .zeroRun 255 :: .replicate 7 (.code 0) ∧ zeroSyms 526 = [.zeroRun 255, .zeroRun 255] ∧
    zeroSyms 534 = [.zeroRun 255, .zeroRun 255, .zeroRun 0] := by decide +kernel

/-- A line of plane 0 whose two-bit pixels 10 to 17 are 1, 2, 2, 1, 3, 2, 0, 1, landed by one head of 32 nozzles with the statuses of
04, section 4.5. -/
def landingOf (line : BitVec 24) (plane : PlaneTable) : Landing :=
  { copy := { hdr := { lineHdr 1 line with depth := 2 }, body := [0, 0, 0x06, 0x9E, 0x10, 0, 0, 0] }, plane := plane,
    nozzles := vset (.replicate 16 []) 0 [(11, 2), (13, 1), (14, 2), (15, 2)],
    heads := vset (.replicate 16 .default) 0 { HeadDescr.default with enabled := true, nozzlesPerRow := 32 },
    accepting := [0], toRaise := [0], incomplete := 1, lost := [] }

/-- 04, section 4.5: compensation on line 77, and the lost drop of column 14 on lines 77 and 78. -/
theorem test_compensation :
    (List.range 8).map (fun k => (landingOf 77 .default).finalCode 0 (10 + k)) = [1, 0, 3, 1, 0, 0, 2, 1] ∧
    (landingOf 77 .default).lostDrops 0 = 1 ∧ (landingOf 78 .default).lostDrops 0 = 1 ∧
    (landingOf 78 .default).finalCode 0 10 = 3 := by decide +kernel

/-- 04, section 4.4: the owner of each column of a zone of width 8 on line 35 (true where the right head owns it). -/
theorem test_stitchOwners :
    let tile : PlaneTable := { PlaneTable.default with
      dither := [(48, 200), (49, 10), (50, 90), (51, 130), (52, 60), (53, 250), (54, 150), (55, 30)] }
    (List.range 8).map (fun k => (landingOf 35 tile).rightOwns k 8) = [false, true, false, false, true, false, true, true] := by
  decide +kernel

/-- 05, section 5.2: capacities. -/
theorem test_capacities : [(1, 512), (1, 256), (1, 320), (4, 256), (1, 64)].map (fun x => capacityOf x.1 x.2) =
    [2048, 4096, 3276, 16383, 16383] := by decide

/-- A device with a line pitch ratio, a debt and a phase, in a job, at a forward or backward edge. -/
def reversing (ratio debt phase : Nat) (forward : Bool) : Device :=
  edging forward (!forward) (false, false)
    { running with
      tab := { running.tab with job := { running.tab.job with pitchRatio := ratio } }
      pu := { running.pu with debt := debt, phase := phase } }

/-- 06, section 6.2: edges of the short reversal and of the debt at its limit, as (debt, phase) after. -/
theorem test_reversal :
    let e := fun ratio debt phase forward =>
      let d := after (.filteredTransition .lineFirst) (reversing ratio debt phase forward)
      (d.pu.debt, d.pu.phase, d.pu.count)
    [e 16384 0 40960 false, e 16384 49152 40960 true, e 16384 0 57344 true, e 15481 1037227 0 false, e 15481 11349 0 true] =
      [(16384, 40960, 0), (32768, 40960, 0), (0, 8192, 1), (1048576, 0, 0), (0, 4132, 0)] := by decide +kernel

/-! ### What meets the hypotheses of the statements -/

theorem test_witness_StepRunsFrontCommand : ({ State.reset with pending := [.pickup, .read] } : State).pending = .pickup :: [.read] := rfl

theorem test_witness_ExecKeepsQueue : exec .pickup State.reset = .next State.reset := rfl

theorem test_witness_NothingActsUnderResetPin :
    let s := just { dev0 with resetPin := true }
    s.dev.resetPin = true ∧ s.dev.ls.service = none ∧ (∀ m, Instr.pickup ≠ .resetPinRelease m) ∧
      (∀ ch l, Instr.pickup ≠ .encoderInputChange ch l) ∧ ∀ l, Instr.pickup ≠ .pdiLevelChange l :=
  ⟨rfl, rfl, nofun, nofun, nofun⟩

/-- A landing write of one byte at address 64. -/
def landWrite : LandWrite := { port := 0, addr := 64, bytes := [0xE4], live := true }

/-- The same write once its landing was abandoned. -/
def forgotten (w : LandWrite) : LandWrite := { w with live := false }

theorem test_witness_ResetPinClears :
    dev0.resetPin = false ∧ ({ dev0 with resetPin := true } : Device).resetPin = true ∧
      (serving (.landWrite landWrite) dev0).ls.service = some (.landWrite landWrite) ∧ 63 < landWrite.addr ∧
      landWrite.addr + landWrite.bytes.length ≤ 65 := by decide +kernel

theorem test_witness_IdleBringsSync : dev0.working := by decide +kernel

/-- In sync and working: for the statements about header commands. -/
theorem test_witness_DownHeaders : (linked dev0).working ∧ (linked dev0).cp.downSync = .inSync ∧
    ∀ kind ∈ [0, 3, 5, 255], (kind : Byte) ≠ 1 ∧ kind ≠ 2 ∧ kind ≠ 4 := by decide +kernel

/-- The device receiving a down-lane parcel. -/
def receiving (rx : DownRx) : Device := { linked dev0 with cp := { (linked dev0).cp with rx := rx } }

theorem test_witness_LineEndJudges : ∀ judged : Bool,
    let d := receiving (.line (lineHdr 1 0) judged)
    d.working ∧ d.cp.downSync = .inSync ∧ d.cp.rx = .line (lineHdr 1 0) judged := by decide +kernel

theorem test_witness_OrderEndJudges : ∀ queued repeated : Bool,
    let d := receiving (.order (order 4 []).hdr queued repeated)
    d.working ∧ d.cp.downSync = .inSync ∧ d.cp.rx = .order (order 4 []).hdr queued repeated := by decide +kernel

/-- A NUMBER parcel is open, held or discarded; and none is. -/
theorem test_witness_NumberTakesChainId :
    (∀ held : Bool, (receiving (.number 3 held)).working ∧ (receiving (.number 3 held)).cp.downSync = .inSync ∧
      (receiving (.number 3 held)).cp.rx = .number 3 held) ∧
    (receiving .idle).working ∧ ∀ w held, (receiving .idle).cp.rx ≠ .number w held :=
  ⟨by decide +kernel, by decide +kernel, nofun⟩

/-- A NUMBER parcel whose end follows its header is taken; one held at the RESET order is not, and a wrong CRC of it is counted. -/
theorem test_numberHeldAtReset :
    let end3 := NumberPart.closed (crcBytes [4, 3])
    let d := (linked dev0).number 3 .opened
    (d.number 3 end3).cp.chainId = 3 ∧ d.cp.rx = .number 3 true ∧ d.softReset.cp.rx = .number 3 false ∧
      (d.softReset.number 3 end3).cp.chainId = 0 ∧ (d.softReset.number 3 end3).cp.downOut = d.cp.downOut ∧
      (d.softReset.number 3 end3).cp.rx = .idle ∧
      (d.softReset.number 3 (.closed [0, 0, 0, 0])).counter .downCrcErrors = 1 := by decide +kernel

/-- The device receiving a return-in parcel. -/
def returning (rx : ReturnRx) : Device := { linked dev0 with cp := { (linked dev0).cp with returnRx := rx } }

theorem test_witness_ReturnLane : ∀ rx ∈ [ReturnRx.idle, .storing, .ignoring],
    (returning rx).working ∧ (returning rx).cp.returnSync = .inSync ∧ (returning .storing).cp.returnRx ≠ .idle := by decide +kernel

/-- The device sending on the up lane, with a reply and a return parcel waiting. -/
def sending (source : UpSource) (endsReset : Bool) : Device :=
  { dev0 with cp := { dev0.cp with
    upSending := some source
    replies := [{ answer 0 (order 11 []).hdr .ok [] with endsReset := endsReset }]
    returnQ := [[3, 0, 0, 0, 0, 0, 0, 0, 0, 0]] } }

theorem test_witness_UpLane : ∀ source ∈ [UpSource.replyQueue, .returnBuffer], ∀ endsReset : Bool,
    let d := sending source endsReset
    d.working ∧ d.cp.upSending = some source ∧ d.cp.replies.length = 1 ∧ d.cp.returnQ.length = 1 ∧
      (d.cp.replies.head?).any (fun r => r.endsReset == endsReset) = true := by decide +kernel

/-- A waiting order is offered wherever the device works, executes none and has a FREE reply place. -/
theorem test_witness_offers (d : Device) (o : OrderParcel) (h : d.working) (e : d.ou.exec = none) (f : d.cp.replies.length < 4) :
    (holding d o).offers o [] := ⟨h, rfl, e, f⟩

/-- The devices on which the orders' statements are met work and execute no order. -/
theorem test_witness_offering : ∀ d ∈ [dev0, linked dev0, ready, running, stored [slot 0 .landed] running, inJob .stopping running],
    d.working ∧ d.ou.exec = none ∧ d.cp.replies.length < 4 := by decide +kernel

theorem test_witness_MisfitOrderRefused :
    ∀ x ∈ [(0, 0), (12, 0), (255, 2), (1, 1), (1, 3), (2, 1), (2, 66), (3, 1), (4, 1), (5, 1), (6, 1), (7, 0), (7, 2), (8, 1), (9, 0),
        (10, 2), (11, 1)],
      let o := order (BitVec.ofNat 8 x.1) (List.replicate x.2 0)
      o.hdr.code.toNat = x.1 ∧ o.body.length = x.2 ∧ (x.1 ∈ [1, 2, 3, 4, 5, 6, 7, 8, 9, 10, 11] → o.fits = false) := by decide +kernel

theorem test_witness_TableAccessRefused_ranges :
    (∀ x ∈ extents.zipIdx, ¬ withinTable x.2 x.1 1 ∧ withinTable x.2 (x.1 - 1) 1) ∧
    (∀ table ∈ [11, 255], 10 < (order 1 (range table 0 1)).table) ∧
    (∀ count ∈ [0, 65], (order 1 (range 10 0 count)).count = count ∧ (count = 0 ∨ 64 < count)) ∧
    ¬ dev0.withinWindow 0 1 ∧ ¬ (stored [] running).withinWindow 0 19 ∧ (stored [] running).withinWindow 0 18 := by decide +kernel

theorem test_witness_TableAccessRefused_locked :
    (∀ x ∈ [(0, 5), (7, 0), (8, 16), (9, 135)], withinTable x.1 x.2 1 ∧ lockedWord .config x.1 x.2) ∧
    (∀ x ∈ [(1, 0), (2, 12), (3, 127), (6, 0)], withinTable x.1 x.2 1 ∧ lockedWord running.pc.job x.1 x.2) ∧
    (∀ x ∈ [(2, 13), (2, 255), (4, 0), (5, 32767), (8, 17)], ¬ lockedWord running.pc.job x.1 x.2) := by decide +kernel

theorem test_witness_ReadReturnsRange : ∀ x ∈ [(0, 0, 6), (0, 5, 1), (7, 512, 64), (9, 135, 1)],
    let o := order 1 (range x.1 x.2.1 x.2.2)
    o.body.length = 2 ∧ o.table = x.1 ∧ o.start = x.2.1 ∧ o.count = x.2.2 ∧ withinTable o.table o.start o.count := by decide +kernel

/-- Table 9 with no record, and with a bound page, a bound limit and a PITCH trigger scheduled. -/
theorem test_pageQueueView :
    let pitched := fun d : Device => { d with
      tab := { d.tab with job := { d.tab.job with source := .pitch, pitch := 100 } }
      pc := { d.pc with anchor := some 20, boundLimit := some 30, report := some { tag := 5, starved := 1, skipped := 2 } } }
    ((List.range 16).map (dev0.readWord 9)) = List.replicate 16 0 ∧
    ((List.range 16).map ((pitched (queued [page 9 (.bound 20)] running)).readWord 9)) =
      [1, 261, 1, 2, 0, 30, 104, 3, 0x09000001, 4, 20, 0, 0, 0, 0, 0] := by decide +kernel

/-- A word clamped, one not, a pitch ratio of 0, a mask word. -/
theorem test_storeWord :
    let back := fun table i w => ((dev0.storeWord table i w).2, (dev0.storeWord table i w).1.readWord table i)
    back 1 2 40 = (true, 15) ∧ back 1 0 0 = (false, 0) ∧ back 2 4 40 = (true, 32) ∧ back 6 0 0x8007 = (false, 7) ∧
    back 6 0 0x7F01 = (true, 0x3F01) ∧ back 8 17 0xFFFFFFFF = (false, 0x1FFF) ∧ back 8 33 0xFFFFFFFF = (false, 0x7F) := by decide +kernel

theorem test_witness_StoredWordReadsBack : dev0.mapsRise ∧
    ∀ x ∈ [(1, 0), (1, 9), (2, 0), (2, 255), (3, 127), (4, 0), (4, 2175), (5, 0), (5, 32767), (6, 511)], withinTable x.1 x.2 1 := by
  decide +kernel

/-- A window read of the two record words and one memory word. -/
def window : WindowRead := { port := 0, position := 0, word := 0, count := 3 }

theorem test_witness_WindowReadServed :
    let o := order 1 (range 10 0 3)
    let d := stored [slot 0 .landed] running
    let e : Device := serving (.window window 0 0 0) { running with ou := { running.ou with exec := some (.windowRead o.hdr) } }
    o.table = 10 ∧ o.count = 3 ∧ d.withinWindow o.start o.count ∧ d.ls.service = none ∧
      ((d.ring 0).map (fun g => g.slots.length)) = some 1 ∧ (stored [] running).ring 0 = some { Ring.establish head with slots := [] } ∧
      (serving (.landWrite landWrite) d).ls.service ≠ none ∧ e.working ∧ e.ls.window = none ∧
      0 + 4 * (max (window.word + window.count) 2 - 2) ≤ segmentsOf e.ou.memory * 1048576 := by decide +kernel

/-- A WRITE of one word that every check permits, clause by clause. -/
def permitted (d : Device) (table i : Nat) : Bool :=
  let o := order 2 (writing table i [1])
  o.hdr.code == 2 && decide (2 ≤ o.body.length ∧ o.body.length ≤ 65 ∧ 1 ≤ o.table ∧ o.table ≤ 8 ∧ o.table ≠ 7) &&
    decide (withinTable o.table o.start o.data.length) && decide (o.data.length = 1) && !decide (lockedWord d.pc.job o.table o.start)

/-- WRITEs that every check permits, with the rows of the table they answer to. -/
theorem test_witness_WriteStoresWords :
    (∀ x ∈ [(1, 0), (2, 0), (3, 0), (4, 0), (5, 0), (6, 0), (8, 17)], permitted ready x.1 x.2) ∧
    (∀ x ∈ [(2, 13), (2, 14), (2, 15), (4, 0), (5, 32767), (8, 33)], permitted running x.1 x.2) := by decide +kernel

theorem test_witness_WriteRows :
    (order 2 (writing 2 0 [1])).IsRow .writeEnabledWord ∧ (order 2 (writing 6 0 [1])).IsRow .writeWaveforms ∧
    (order 2 (writing 2 13 [1])).IsRow .writeTestMode ∧ (order 2 (writing 2 15 [1])).IsRow .writeSettleTime ∧
    (order 2 (writing 2 14 [1])).IsRow .writeIdleTickleInterval ∧ (order 2 (writing 8 17 [1])).IsRow .writeMask ∧
    (order 2 (writing 1 0 [1])).IsRow .write :=
  ⟨.enabled 0 (by decide +kernel), .waveforms (by decide +kernel), .testMode 0 (by decide +kernel), .settle 0 (by decide +kernel),
    .tickle 0 (by decide +kernel), .mask 17 (by decide) (by decide) (by decide +kernel), .write⟩

/-- Disabling and enabling port 0, and writing its waveforms: state and tokens after. -/
theorem test_writeMovesPort :
    let e := fun c body d => ((after c (holding d (order 2 body))).port 0)
    (e .writeEnabledWord (writing 2 0 [0]) ready).state = .disabled ∧
    (e .writeEnabledWord (writing 2 0 [1]) (fitted { head with enabled := false } .disabled dev0)).state = .unloaded ∧
    (e .writeEnabledWord (writing 2 0 [1]) dev0).state = .down ∧ (e .writeEnabledWord (writing 2 0 [1]) ready).state = .ready ∧
    (e .writeWaveforms (writing 6 31 [1]) ready).state = .unloaded ∧
    (e .writeWaveforms (writing 6 32 [1]) ready).state = .ready := by decide +kernel

/-- A WRITE that lowers the row count in CONFIG empties the row it leaves not enabled, hold and all, and keeps the other (R42, R136). -/
theorem test_rowCountWritten :
    let held := pipe .empty (.loaded 1) (some 1)
    let d := after .write (holding ((piped held ready).modPipe 0 1 (fun _ => held)) (order 2 (writing 2 3 [1])))
    d.rowEnabled 0 1 = false ∧ d.pipe 0 1 = pipe .empty .clear none ∧ d.pipe 0 0 = held ∧ (d.port 0).tokens = [] := by decide +kernel

/-- A change to a fetch mode drops a pattern line; entering PRBS from a fetch mode hands a line over from the seed. -/
theorem test_modeTurned :
    let patterned : Device := { running with tab := { running.tab with heads := vmod running.tab.heads 0 (fun h => { h with testMode := .flood }) } }
    let e := fun mode d => after .writeTestMode (holding d (order 2 (writing 2 13 [mode])))
    ((e 0 (piped (pipe (.staged 2 none) (.loaded 1) none) patterned)).pipe 0 0).stage = .empty ∧
    ((e 4 (piped (pipe (.waiting 2 ⟨1, 9⟩) .clear none) running)).pipe 0 0) = pipe (.staged 2 none) (.sending 1) none ∧
    vget ((e 4 (piped (pipe (.waiting 2 ⟨1, 9⟩) .clear none) running)).port 0).prbs 0 = prbsAfter 0x7FFF 32 ∧
    vget ((e 4 running).port 0).prbs 1 = 0x7FFF := by decide +kernel

/-- A printing row with an occupied latch, and one with a hold before and after its release time. -/
theorem test_witness_OperatingWordsAct :
    let d := piped (pipe (.waiting 2 ⟨1, 9⟩) (.loaded 1) none) running
    let e := piped (pipe .empty (.loaded 1) (some 1)) running
    let mode := order 2 (writing 2 13 [2])
    let settle := order 2 (writing 2 15 [1])
    d.pc.job ≠ .config ∧ d.permits mode ∧ mode.writes 2 13 = true ∧ mode.writes 2 15 = false ∧ d.printing 0 0 = true ∧
      (d.pipe 0 0).latch ≠ .clear ∧ ((after .writeTestMode (holding d mode)).head 0).testMode = .flood ∧
      ((after .writeTestMode (holding d mode)).pipe 0 0).stage = .staged 2 none ∧
      ((after .writeSettleTime (holding e settle)).pipe 0 0).hold = some 1 ∧
      ((after .writeSettleTime (holding (atTick 5 e) settle)).pipe 0 0).hold = none ∧
      (e.port 0).state = .ready := by decide +kernel

theorem test_witness_ReadClearAndAlert :
    (∀ x ∈ [(7, 0, 64), (7, 575, 1), (8, 0, 34), (8, 17, 1)],
      let o := order 3 (range x.1 x.2.1 x.2.2)
      o.body.length = 2 ∧ o.table = x.1 ∧ 1 ≤ o.count ∧ o.count ≤ 64 ∧ withinTable o.table o.start o.count) ∧
    dev0.resetPin = false ∧ dev0.ou.devEvents.getLsbD 0 = false ∧ (dev0.setEvent .jobStopped).alert = true ∧
    (dev0.setHeadEvent 3 .starved).alert = true := by decide +kernel

theorem test_witness_StartJob : ready.pc.job = .config ∧ ready.startFault = none ∧ ready.webInRange ∧ running.pc.job = .run ∧
    dev0.startFault = some (.noHeads, 16) ∧ (fitted head .parked dev0).startFault = some (.portNotReady, 0) ∧
    (fitted { head with ringBase := 512 } .ready dev0).startFault = some (.ringRange, 0) := by decide +kernel

/-- A job that starts with a head in a pattern mode sends its first line at once and stages the second. -/
theorem test_patternStart :
    let d := after .startJob (holding (fitted { head with testMode := .flood } .ready dev0) (order 4 []))
    (d.pipe 0 0).latch = .sending 1 ∧ (d.pipe 0 0).stage = .staged 2 none ∧ (d.pipe 0 3).latch = .clear := by decide +kernel

/-- STOP_JOB with and without a bound page, and ABORT_JOB, reach the job states they should. -/
theorem test_jobEnds :
    let stop := fun qs => (after .stopJob (holding (queued qs running) (order 5 []))).pc.job
    stop [page 1 .announced] = .config ∧ stop [page 1 (.bound 9), page 2 .announced] = .stopping ∧
    (after .abortJob (holding (queued [page 1 (.bound 9)] running) (order 6 []))).pc.job = .config := by decide +kernel

theorem test_witness_Announce :
    let full := queued ((List.range 16).map (fun k => page (BitVec.ofNat 8 k) .announced)) running
    let status := fun d w => ((after .announce (holding d (order 7 [w]))).cp.replies.map (·.status))
    status ready 0x20000004 = [.notRunning] ∧ status full 0x03000004 = [.dupTag] ∧ status full 0x20000004 = [.queueFull] ∧
    status running 0x20000000 = [.ok] ∧ ((after .announce (holding running (order 7 [0x20000000]))).pc.queue.map (·.length)) = [1] := by
  decide +kernel

/-- GO in CONFIG, without a page, early and binding: its reply words. -/
theorem test_witness_GoTriggers :
    let bodies := fun d => (after .go (holding d (order 8 []))).cp.replies.map (fun r => (r.status, r.body))
    let announced := queued [page 9 .announced] running
    bodies ready = [(.notRunning, [])] ∧ bodies running = [(.ok, [1])] ∧ bodies announced = [(.ok, [0x900])] ∧
    bodies { announced with pc := { announced.pc with boundLimit := some 17 } } = [(.ok, [2])] := by decide +kernel

/-- The qualify time over, with the qualifier acting and not. -/
theorem test_witness_QualifyExpiryTriggers : ∀ d ∈ [running, ready],
    let e : Device := { d with pc := { d.pc with qualifier := some 0 } }
    e.working ∧ e.pc.qualifier = some 0 ∧ 0 ≤ e.now ∧ e.tab.job.source = .pdi ∧ (after .pdiQualifyExpiry e).pc.qualifier = none := by
  decide +kernel

/-- LOAD_WAVES naming a READY port, and naming none. -/
theorem test_witness_LoadWaves :
    let e := fun w => after .loadWaves (holding ready (order 9 [w]))
    ((e 1).port 0).state = .loading ∧ (e 1).ou.exec = some (.loadWaves (order 9 [1]).hdr) ∧ ((e 0).port 0).state = .ready ∧
    ((e 0).cp.replies.map (·.body.length)) = [16] ∧ running.pc.job ≠ .config := by decide +kernel

theorem test_witness_Unpark : (((after .unpark (holding (fitted head .parked dev0) (order 10 [1]))).port 0).state) = .unloaded := by
  decide +kernel

/-- A copy in the Intake Buffer of a running job with a page. -/
def offered (tag : Tag) (line : BitVec 24) (d : Device) : Device :=
  { d with ib := { complete := [{ hdr := lineHdr tag line, body := [0xFF, 0, 0, 0] }], filling := none } }

/-- The head counters OUT_OF_PAGE, STALE, LATE and OVERRUN of port 0. -/
def refusals (d : Device) : List Word := [HeadCounter.outOfPage, .stale, .late, .overrun].map (d.headCounter 0)

theorem test_witness_Pickup :
    let d := queued [page 1 (.bound 9)] running
    let small := { Ring.establish head with capacity := 1, slots := [slot 0 .landed] }
    let passed := d.modRowPos 0 0 (fun q => { q with position := some 11 })
    (offered 1 2 d).working ∧ (offered 1 2 d).le = none ∧ (offered 1 2 d).pc.job ≠ .config ∧
      (after .pickup (offered 2 2 d)).counter .unannounced = 1 ∧ (after .pickup (offered 1 4 d)).headCounter 0 .outOfPage = 1 ∧
      (after .pickup (offered 1 2 (stored [slot 2 .landed] d))).headCounter 0 .stale = 1 ∧
      (after .pickup (offered 1 2 passed)).headCounter 0 .late = 1 ∧
      (after .pickup (offered 1 3 { d with ls := { d.ls with rings := vset d.ls.rings 0 (some small) } })).headCounter 0 .overrun = 1 ∧
      refusals (after .pickup (offered 1 3 d)) = [0, 0, 0, 0] ∧ (after .pickup (offered 1 3 d)).le.isSome = true := by decide +kernel

/-- The device after a pickup of line 2 of page 1, before its landing write is raised. -/
def landingDev : Device := after .pickup (offered 1 2 (queued [page 1 (.bound 9)] running))

theorem test_witness_LandingWriteRaises : landingDev.working ∧ (landingDev.le.map (·.toRaise)) = some [0] ∧
    ((landingDev.ring 0).bind (fun g => g.slots.findIdx? (fun k => k.tag == 1 && k.line == 2))) = some 0 := by decide +kernel

/-- The landing write raised, granted and completed: row 0 takes codes 3 for the eight pixels set, row 1 likewise, and the row that
waited for the line fetches it. -/
theorem test_witness_LandingWriteCompletes :
    let d := after .landingWriteRaised landingDev
    let w : LandWrite := { port := 0, addr := 0, bytes := [0xFF, 0, 0, 0, 0xFF, 0, 0, 0], live := true }
    let e := after .landingWriteComplete (piped (pipe (.waiting 11 ⟨1, 2⟩) .clear none) d)
    d.working ∧ d.ls.service = some (.landWrite w) ∧ d.ls.window = none ∧ (d.le.map (fun g => (g.incomplete, g.accepting))) = some (1, [0]) ∧
      w.addr + w.bytes.length ≤ segmentsOf d.ou.memory * 1048576 ∧ e.mem.map (·.2) = w.bytes ∧
      (e.pipe 0 0).stage = .fetching 11 ⟨1, 2⟩ ∧ e.ls.service.isSome = true ∧ e.headCounter 0 .landed = 1 ∧
      stopsAt .landingWriteComplete (serving (.landWrite { w with addr := 536870905 }) d) = some 536870905 ∧
      stopsAt .landingWriteComplete d = none := by
  decide +kernel

/-- A write of an abandoned landing, and one of a landing with another write to come. -/
theorem test_witness_LandingWriteKept :
    let d := after .landingWriteRaised landingDev
    let abandoned := serving (.landWrite (forgotten landWrite)) { d with le := none }
    let first : Device := { d with le := d.le.map (fun g => { g with incomplete := 2 }) }
    abandoned.working ∧ first.working ∧ first.ls.window = none ∧ (after .landingWriteComplete abandoned).headCounter 0 .landed = 0 ∧
      ((after .landingWriteComplete first).le.map (·.incomplete)) = some 1 := by decide +kernel

/-- A fetch of row 0 in service whose bytes are written. -/
def fetching : Device :=
  let f : Fetch := { port := 0, row := 0, tag := 1, line := 2, addr := 0, len := 4, live := true }
  serving (.fetch f) { queued [page 1 (.bound 9)] running with mem := [(0, 0xE4), (1, 0), (2, 0), (3, 1)] }

theorem test_witness_RowFetchCompletes :
    let d := piped (pipe (.fetching 11 ⟨1, 2⟩) (.loaded 10) none) fetching
    let e := piped (pipe (.fetching 11 ⟨1, 2⟩) .clear none) fetching
    d.working ∧ d.ls.window = none ∧ ¬ notAhead 11 (d.standing 0 0) ∧ e.printing 0 0 = true ∧
      ((after .rowFetchComplete d).pipe 0 0).stage = .staged 11 (some [3, 2, 1, 0, 0, 0, 0, 0, 0, 0, 0, 0, 0, 0, 0, 1]) ∧
      ((after .rowFetchComplete e).pipe 0 0).latch = .sending 11 ∧ ((after .rowFetchComplete e).port 0).frames.length = 1 ∧
      notAhead 11 ((d.modRowPos 0 0 (fun q => { q with position := some 11 })).standing 0 0) := by decide +kernel

/-- Forward, backward and error transitions whose filter time is complete. -/
theorem test_witness_Transitions :
    let move := fun d : Device => decodePair d.tab.job.sense d.pu.pair
      ((d.pu.chA.complete d.filterDue (d.channelDue d.pu.chA)).filtered, (d.pu.chB.complete d.filterDue (d.channelDue d.pu.chB)).filtered)
    let forward := edging true false (false, false) running
    forward.working ∧ forward.pc.job ≠ .config ∧ due forward.now forward.filterDue = true ∧ forward.tab.job.pitchRatio ≠ 0 ∧
      move forward = .forward ∧ move (edging false true (false, false) running) = .backward ∧
      move (edging true true (false, false) running) = .error ∧ (edging true false (false, false) dev0).pc.job = .config ∧
      ((after (.filteredTransition .rowsFirst) forward).rowPos 0 0).position = some 1 := by decide +kernel

/-- A second forward edge of a job: the crossing armed for now expires at once, and one a tick away waits (R111). -/
theorem test_zeroDelayExpires :
    let d := fun interval => ({ edging true false (false, false) running with
      pu := { (edging true false (false, false) running).pu with reference := some (100 - interval) } } : Device)
    let e := fun interval => (after (.filteredTransition .lineFirst) (d interval)).rowPos 0 0
    ((e 0).position, (e 0).timer, (e 0).taken) = (some 2, none, true) ∧
    ((e 1).position, (e 1).timer, (e 1).taken) = (some 1, some ⟨101, 2⟩, false) := by decide +kernel

/-- A PITCH trigger at its line count: bound, refused for want of a page with the anchor moved on, and none a line before. -/
theorem test_pitchTrigger :
    let d := fun qs n => ({ queued qs running with
      tab := { running.tab with job := { running.tab.job with source := .pitch, pitch := 100 } }
      pc := { (queued qs running).pc with anchor := some 20 }
      pu := { running.pu with count := n } } : Device)
    let e := fun qs n => (d qs n).globalLineEvent
    ((e [page 9 .announced] 104).pc.queue.map (·.state)) = [.bound 120] ∧ (e [page 9 .announced] 104).pc.anchor = some 120 ∧
    (e [] 104).counter .missedPitches = 1 ∧ (e [] 104).pc.anchor = some 120 ∧ e [] 103 = d [] 103 := by decide +kernel

/-- The row line event of the last row at a page's last line finishes the page, and ends a stopping job. -/
theorem test_pageFinishes :
    let d := fun j => inJob j ((queued [page 1 (.bound 9)] running).modRowPos 0 1 (fun q => { q with position := some 12 }))
    let e := fun j => (d j).rowLineEvent 0 0 12
    (e .run).pc.queue = [] ∧ (e .run).counter .pagesDone = 1 ∧ (e .run).pc.job = .run ∧ (e .stopping).pc.job = .config ∧
    (e .run).pc.report = some { tag := 1, starved := 1, skipped := 0 } ∧ (e .stopping).ou.devEvents = 192 ∧
    (((d .run).rowLineEvent 0 0 11).pc.queue.map (·.state)) = [.active 9] := by decide +kernel

/-- Tokens of one instant stand in row order behind those that were there (R169). -/
theorem test_tokensInRowOrder :
    let hp := { running.port 0 with tokens := [.discard 3, .fire 3, .discard 0, .discard 2] }
    (hp.sortBehind 1).tokens = [.discard 3, .discard 0, .discard 2, .fire 3] := by decide +kernel

/-- A timer due at a printing row: fire, hold, starve and skip, by what the row holds. -/
theorem test_witness_RowLineEvent :
    let at11 := fun q now => timed 11 (atTick now (piped q (stored [slot 2 .landed] (queued [page 1 (.bound 9)] running))))
    let e := fun q now => after (.interpolationTimerExpiry 0 0) (at11 q now)
    let slow := fun d : Device => { d with tab := { d.tab with heads := vmod d.tab.heads 0 (fun h => { h with settle := 1 }) } }
    let fresh := at11 (pipe .empty (.loaded 11) none) 0
    fresh.working ∧ ((fresh.rowPos 0 0).timer.map (·.pending)) = some 11 ∧ fresh.printing 0 0 = true ∧
      fresh.pc.pageLine 11 = some ⟨1, 2⟩ ∧ (fresh.ring 0).isSome = true ∧
      (e (pipe .empty (.loaded 11) none) 0).headCounter 0 .fired = 1 ∧ (e (pipe .empty (.loaded 10) none) 0).headCounter 0 .starved = 1 ∧
      (e (pipe .empty (.loaded 10) (some 10)) 0).headCounter 0 .skipped = 1 ∧
      ((after (.interpolationTimerExpiry 0 0) (slow fresh)).pipe 0 0).hold = some 11 ∧
      (((after (.interpolationTimerExpiry 0 0) (timed 3 running)).rowPos 0 0).position) = some 3 ∧
      (({ fresh with now := 0 } : Device).modRowPos 0 0 (fun q => { q with timer := some ⟨1, 11⟩ })).now < 1 := by decide +kernel

/-- The done notice of the last row of a LANDED slot releases it. -/
theorem test_doneNoticeReleases :
    let done : Slot := { slot 2 .landed with done := #v[false, true, false, false] }
    let d := timed 11 (stored [done] (queued [page 1 (.bound 9)] running))
    ((after (.interpolationTimerExpiry 0 0) d).ring 0).map (fun g => (g.oldest, g.slots)) = some (1, []) := by decide +kernel

theorem test_witness_HoldRelease :
    let d := (piped (pipe .empty (.loaded 11) (some 11)) running)
    let slow : Device := { d with tab := { d.tab with heads := vmod d.tab.heads 0 (fun h => { h with settle := 1 }) } }
    d.working ∧ (d.pipe 0 0).hold = some 11 ∧ ((after (.holdRelease 0 0) d).port 0).tokens = [.fire 0] ∧
      ((after (.holdRelease 0 0) slow).pipe 0 0).hold = some 11 ∧ ((after (.holdRelease 0 0) (atTick 5 slow)).pipe 0 0).hold = none := by
  decide +kernel

theorem test_witness_InputLevels :
    let q := fun d level => (after (.pdiLevelChange level) d).pc.qualifier
    q ready true = none ∧ q running true = some 1000 ∧ q running false = none ∧
      q { running with pc := { running.pc with qualifier := some 9 } } true = none ∧
      q { running with pc := { running.pc with pdi := true } } false = none := by decide +kernel

/-- Head port 0 of a running job, set. -/
def ported (f : HeadPort → HeadPort) (d : Device) : Device := d.modPort 0 f

theorem test_witness_LaneArbiter :
    let sends := fun f => ((after (.symbolBoundary 0) (ported f running)).port 0).current
    let frame : Frame := { row := 1, stale := false, left := [.start 1 7] }
    running.working ∧ (running.port 0).current = .idle ∧ sends id = .idle ∧
      sends (fun hp => { hp with tokens := [.discard 1], frames := [frame] }) = .token (.discard 1) ∧
      sends (fun hp => { hp with progress := some { frame with left := [.code 2] }, frames := [frame] }) = .frame (.code 2) ∧
      sends (fun hp => { hp with frames := [{ frame with row := 3 }, frame], lastRow := 0 }) = .frame (.start 1 7) := by decide +kernel

/-- A frame at its end. -/
def ending (stale : Bool) (q : Pipeline) : Device :=
  ported (fun hp => { hp with current := .frame (.code 1), progress := some { row := 0, stale := stale, left := [] } }) (piped q running)

theorem test_witness_FrameSent :
    let e := fun stale q => after (.frameSent 0) (ending stale q)
    let passed := fun q => (ending false q).modRowPos 0 0 (fun r => { r with position := some 11 })
    (∀ stale : Bool, ∀ l ∈ [Latch.clear, .sending 11, .loaded 11],
      let d := ending stale (pipe .empty l none)
      d.working ∧ (d.port 0).state = .ready ∧ (d.port 0).frameCanEnd = true) ∧
    ¬ notAhead 11 (running.standing 0 0) ∧ notAhead 11 ((passed (pipe .empty (.sending 11) none)).standing 0 0) ∧
    ((e false (pipe .empty (.sending 11) none)).pipe 0 0).latch = .loaded 11 ∧
    ((e true (pipe .empty (.sending 11) none)).port 0).current = .token (.discard 0) ∧
    ((after (.frameSent 0) { ending true (pipe .empty .clear none) with tab := .default }).port 0).current = .idle ∧
    ((after (.frameSent 0) (passed (pipe .empty (.sending 11) none))).pipe 0 0).latch = .clear ∧
    ((after (.frameSent 0) (passed (pipe (.staged 12 none) (.sending 11) none))).pipe 0 0).latch = .sending 12 := by decide +kernel

/-- A FIRE on the lane, with the silent counter below, at and above the last count. -/
theorem test_witness_FireSent :
    let d := fun n h => ported (fun hp => { hp with current := .token (.fire 0), silent := n }) (fitted h .ready running)
    let e := fun n h => after (.fireTokenSent 0) (d n h)
    (∀ n ∈ [0, 126, 127, 128], (d n head).working ∧ ((d n head).port 0).current = .token (.fire 0) ∧ ((d n head).port 0).silent ≤ 128) ∧
    ((e 126 head).port 0).silent = 127 ∧ (e 126 head).headCounter 0 .silences = 0 ∧ ((e 128 head).port 0).silent = 128 ∧
    (e 127 head).headCounter 0 .silences = 1 ∧ ((e 127 head).port 0).state = .ready ∧
    ((e 127 { head with autoPark := true }).port 0).state = .parked := by decide +kernel

theorem test_witness_HeadLanes :
    let st := fun i d => ((after i d).port 0).state
    st (.headReturnLaneSync 0) (ported (fun hp => { hp with sync := .lost, state := .down }) dev0) = .unloaded ∧
    (∀ s ∈ [PortState.unloaded, .loading, .ready, .parked], st (.headReturnLaneLost 0) (fitted head s dev0) = .down) ∧
    (∀ s ∈ [PortState.disabled, .down], st (.headReturnLaneLost 0) (fitted head s dev0) = s ∧ (fitted head s dev0).working) := by
  decide +kernel

/-- The FIRE that brings the silent counter to 128 parks a LOADING port with auto-park, and LOAD_WAVES is answered (R165, R176). -/
theorem test_silenceAnswersLoad :
    let d := fitted { head with autoPark := true } .loading dev0
    let e : Device := ported (fun hp => { hp with current := .token (.fire 0), silent := 127, loadAt := some 9 })
      { d with ou := { d.ou with exec := some (.loadWaves (order 9 [1]).hdr) } }
    e.working ∧ ((after (.fireTokenSent 0) e).port 0).state = .parked ∧ (after (.fireTokenSent 0) e).ou.exec = none ∧
    ((after (.fireTokenSent 0) e).cp.replies.map (fun r => r.body.head?)) = [some 0x01800005] := by decide +kernel

/-- A FIRE that waits behind a frame symbol. -/
theorem test_witness_FireWaiting :
    let d := ported (fun hp => { hp with
      current := .frame (.code 1), progress := some { row := 1, stale := false, left := [.code 2] }, tokens := [.fire 0], silent := 5 }) running
    d.working ∧ (d.port 0).inFrame = true ∧ ((after (.fireTokenSent 0) d).port 0).silent = 6 ∧
      ((after (.fireTokenSent 0) d).port 0).current = .frame (.code 2) := by decide +kernel

theorem test_witness_HeadMessages :
    let loading := fun acked => ported (fun hp => { hp with acked := acked, loadAt := some 0, silent := 3 }) (fitted head .loading dev0)
    let e := after (.waveAck 0 0x53) (loading #v[true, true, true, false])
    (e.port 0).state = .ready ∧ (e.port 0).tickleAt = some 100000 ∧
      ((after (.waveAck 0 0x53) (loading #v[true, true, false, false])).port 0).state = .loading ∧
      ((after (.ack 0 0x41) (ported (fun hp => { hp with silent := 9 }) ready)).port 0).silent = 0 := by decide +kernel

/-- Bytes that begin no message, and a FAULT without its code, are ignored (R174). -/
theorem test_bytesIgnored :
    let d := ported (fun hp => { hp with silent := 9 }) ready
    after (.ack 0 0x44) d = d ∧ after (.waveAck 0 0x4F) d = d ∧ after (.headFault 0 ⟨0x61, some 1⟩) d = d ∧
    after (.headFault 0 ⟨0x60, none⟩) d = d ∧ d.working := by decide +kernel

theorem test_witness_FaultAndLoadExpiry :
    let st := fun i h s => ((after i (ported (fun hp => { hp with loadAt := some 0 }) (fitted h s dev0))).port 0).state
    let auto := { head with autoPark := true }
    let fault := Instr.headFault 0 ⟨0x60, some 5⟩
    (∀ s ∈ [PortState.unloaded, .loading, .ready, .parked], st fault head s = s ∧ st fault auto s = .parked) ∧
    st (.loadTimerExpiry 0) head .loading = .unloaded ∧ st (.loadTimerExpiry 0) auto .loading = .parked := by decide +kernel

theorem test_witness_IdleTickle :
    let d := fun e => ported (fun hp => { hp with tickleAt := e }) running
    ((after (.idleTickleExpiry 0) (d (some 0))).port 0).tokens = [.tickleAll] ∧ after (.idleTickleExpiry 0) (d (some 1)) = d (some 1) ∧
      ((d (some 0)).port 0).state = .ready := by decide +kernel

/-- A LOCAL pair of heads of 32 columns that share eight, and a head with a REMOTE neighbour on each side. -/
def pair : Vector HeadDescr 16 :=
  let h : HeadDescr := { HeadDescr.default with enabled := true, nozzlesPerRow := 32 }
  vset (vset (vset (.replicate 16 .default) 0 { h with right := { kind := .localPort, port := 1, overlap := 0 } })
    1 { h with origin := 24, left := { kind := .localPort, port := 0, overlap := 0 } })
    2 { h with left := { kind := .remote, port := 0, overlap := 8 }, right := { kind := .remote, port := 0, overlap := 8 } }

theorem test_witness_StitchZone :
    let g : Landing := { landingOf 35 .default with heads := pair }
    (derivedOverlap (g.head 0) (g.head 1)).toNat = 8 ∧ (leftOverlap g.heads 0).toNat + 8 ≤ (g.head 0).nozzles ∧
      (g.head 0).right.kind = .localPort ∧ (g.head 0).right.port = 1 ∧ (g.head 1).left.kind = .localPort ∧ (g.head 1).left.port = 0 ∧
      (leftOverlap g.heads 2).toNat = 8 ∧ (rightOverlap g.heads 2).toNat = 8 ∧ (g.head 2).left.kind = .remote ∧
      (g.head 2).right.kind = .remote ∧ g.owns 0 24 = false ∧ g.owns 1 0 = true ∧ g.owns 0 23 = true := by decide +kernel

/-- Columns OFF, donor, and kept, and a depth of two bits. -/
theorem test_witness_Codes :
    let g : Landing := { landingOf 77 .default with nozzles := vset (.replicate 16 []) 0 [(11, 2), (12, 3)] }
    g.copy.hdr.depth.toNat = 2 ∧ g.status 0 12 = 3 ∧ g.donor 0 11 = true ∧ g.status 0 17 = 0 ∧ g.donor 0 17 = false ∧
      (∀ i < 32, g.gift 0 i 17 = 0) ∧ g.postStitch 0 17 ≤ 3 := by decide +kernel

theorem test_witness_CodesRoundTrip : (∀ c ∈ [3, 2, 1, 0], c ≤ 3) ∧ [3, 2, 1, 0].length % 4 = 0 := by decide

/-- R166, R168: a frame of row 2 at position 0x123456 with codes 1, ten zeros and 4; and a WAVEFORM token with a level of -5 for 0x21 units. -/
theorem test_nibbleForms :
    ((frameSyms 2 0x123456 ([1] ++ List.replicate 10 0 ++ [4])).flatMap FrameSym.form) = [0xD, 2, 1, 2, 3, 4, 5, 6, 1, 0xE, 0, 2, 4] ∧
    (Token.waveform 3 (.replicate 8 { negative := true, magnitude := 5, duration := 0x21 })).form =
      [0xF, 9, 3] ++ (List.replicate 8 [8, 5, 2, 1]).flatten := by decide +kernel

/-- Keep-wet with threshold 2: a first 0 ages a column, a second makes the code 4, a drop clears the age. -/
theorem test_witness_took :
    let h := { head with keepWet := 2 }
    let hp := HeadPort.reset .inSync
    rising hp.ages = true ∧ 1 ≤ h.rowCount ∧
    ((hp.takeFrame h 0 5 none).frames.map (·.left)) = [frameSyms 0 5 (List.replicate 16 0)] ∧
    (((hp.takeFrame h 0 5 none).takeFrame h 0 6 (some (3 :: List.replicate 15 0))).frames.map (·.left)).getLast? =
      some (frameSyms 0 6 (3 :: List.replicate 15 4)) := by decide +kernel

/-- The invariants hold after reset and in a job, and steps are taken there. -/
theorem test_witness_Invariants : ∀ d ∈ [dev0, running],
    d.mapsRise ∧ d.chainIdLegal ∧ d.webInRange ∧ d.silentInRange ∧ d.queuesFit ∧ d.ringsFit ∧ d.settled ∧ d.passingAtRest ∧
      d.nextDue = none := by decide +kernel

/-- The bounds of the requests hold after reset and in a job, with a landing in flight, its write in service, and
with the row that waited fetching its line. -/
theorem test_witness_RequestBounds :
    let d := after .landingWriteRaised landingDev
    ∀ e ∈ [dev0, running, landingDev, d, after .landingWriteComplete (piped (pipe (.waiting 11 ⟨1, 2⟩) .clear none) d)],
      e.intakeFits ∧ e.writesFit ∧ e.fetchesFit := by decide +kernel

theorem test_stepTicks (d : Device) (h : d.nextDue = none) : step (just d) = .next (just d.tick) := by simp [step, just, h]

end Sys2Proof.Tests
end

section
/-! PROOFS. The stitch zones (R68 to R70): the share, who owns a head column, and that a LOCAL pair's two heads divide their zone. -/

namespace Sys2Proof.Machine

/-! ### The right head's share (R68) -/

theorem share_pos {S : Nat} (k : Nat) (h : 1 ≤ S) (h' : S ≤ 64) : 1 ≤ share k S :=
  (Nat.one_le_div_iff (by omega)).2 (by omega)

theorem share_le {S k : Nat} (h : k < S) : share k S ≤ 255 :=
  Nat.le_of_lt_succ (Nat.div_lt_of_lt_mul (by omega))

/-- One column further right the share's numerator grows by 512, at least once its divisor. -/
theorem share_lt_share_succ {S : Nat} (k : Nat) (h : 1 ≤ S) (h' : S ≤ 64) : share k S < share (k + 1) S :=
  calc share k S < (2 * k + 1) * 256 / (2 * S) + 1 := Nat.lt_succ_self _
    _ = ((2 * k + 1) * 256 + 2 * S) / (2 * S) := (Nat.add_div_right _ (by omega)).symm
    _ ≤ share (k + 1) S := Nat.div_le_div_right (by omega)

/-! ### The stitch fallback (R70) -/

theorem failed_iff (s : Nat) : failed s = true ↔ s = 2 ∨ s = 3 := by simp [failed]

theorem fallback_iff (mine : Bool) (a b : Nat) :
    fallback mine a b = true ↔
      if mine then ¬ (failed a = true ∧ ¬ failed b = true) else failed b = true ∧ ¬ failed a = true := by
  cases mine with
  | false => simp [fallback]
  | true => simp [fallback, imp_iff_not_or]

/-- The two heads of a pair judge one column with complementary results. -/
theorem fallback_not (mine : Bool) (a b : Nat) : fallback (!mine) a b = !fallback mine b a := by
  cases mine <;> simp [fallback]

/-! ### Zones and ownership (R49, R50, R68) -/

namespace Landing
variable (g : Landing) (p : PortIx)

theorem zone_of_lt_leftOverlap {j : Nat} (h : j < (leftOverlap g.heads p).toNat) :
    g.zone p j = .leftZone j (leftOverlap g.heads p).toNat := by simp [zone, h]

/-- Zone index k of the right zone is head column N - S + k (R50). -/
theorem zone_of_right {k : Nat}
    (fits : (leftOverlap g.heads p).toNat + (rightOverlap g.heads p).toNat ≤ (g.head p).nozzles) :
    g.zone p ((g.head p).nozzles - (rightOverlap g.heads p).toNat + k) =
      .rightZone k (rightOverlap g.heads p).toNat := by
  have notLeft : ¬ (g.head p).nozzles - (rightOverlap g.heads p).toNat + k < (leftOverlap g.heads p).toNat := by omega
  have inRight : (g.head p).nozzles - (rightOverlap g.heads p).toNat + k + (rightOverlap g.heads p).toNat =
    (g.head p).nozzles + k := by omega
  simp [zone, notLeft, inRight]

theorem zone_of_between {j : Nat} (hl : (leftOverlap g.heads p).toNat ≤ j)
    (hr : j + (rightOverlap g.heads p).toNat < (g.head p).nozzles) : g.zone p j = .free := by
  simp [zone, Nat.not_lt.2 hl, Nat.not_le.2 hr]

theorem owns_of_between {j : Nat} (hl : (leftOverlap g.heads p).toNat ≤ j)
    (hr : j + (rightOverlap g.heads p).toNat < (g.head p).nozzles) : g.owns p j = true := by
  simp [owns, g.zone_of_between p hl hr]

theorem owns_remote_left {k : Nat} (remote : (g.head p).left.kind = .remote) (h : k < (leftOverlap g.heads p).toNat) :
    g.owns p k = g.rightOwns k (leftOverlap g.heads p).toNat := by
  simp [owns, g.zone_of_lt_leftOverlap p h, remote]

theorem owns_remote_right {k : Nat} (remote : (g.head p).right.kind = .remote)
    (fits : (leftOverlap g.heads p).toNat + (rightOverlap g.heads p).toNat ≤ (g.head p).nozzles) :
    g.owns p ((g.head p).nozzles - (rightOverlap g.heads p).toNat + k) = !g.rightOwns k (rightOverlap g.heads p).toNat := by
  simp [owns, g.zone_of_right p fits, remote]

/-! ### LOCAL pairs (R47, R70) -/

/-- The heads at `p`, on the left, and `q`, on the right, name each other as LOCAL neighbours. -/
structure LocalPair (g : Landing) (p q : PortIx) : Prop where
  rightKind : (g.head p).right.kind = .localPort
  rightPort : (g.head p).right.port = q
  leftKind : (g.head q).left.kind = .localPort
  leftPort : (g.head q).left.port = p

namespace LocalPair
variable {g p} {q : PortIx} (pair : g.LocalPair p q)
include pair

theorem rightOverlap_eq : rightOverlap g.heads p = derivedOverlap (g.head p) (g.head q) := by
  have kind : (vget g.heads p).right.kind = .localPort := pair.rightKind
  have port : (vget g.heads p).right.port = q := pair.rightPort
  simp [rightOverlap, kind, port, head]

theorem leftOverlap_eq : leftOverlap g.heads q = derivedOverlap (g.head p) (g.head q) := by
  have kind : (vget g.heads q).left.kind = .localPort := pair.leftKind
  have port : (vget g.heads q).left.port = p := pair.leftPort
  simp [leftOverlap, kind, port, head]

/-- The right head's ownership of zone column `k`. -/
theorem owns_right {k S : Nat} (width : (derivedOverlap (g.head p) (g.head q)).toNat = S) (h : k < S) :
    g.owns q k = fallback (g.rightOwns k S) (g.status q k) (g.status p ((g.head p).nozzles - S + k)) := by
  have zone : g.zone q k = .leftZone k S := by
    rw [← width, ← pair.leftOverlap_eq]
    exact g.zone_of_lt_leftOverlap q (by rwa [pair.leftOverlap_eq, width])
  simp [owns, zone, pair.leftKind, pair.leftPort]

/-- The left head's ownership of the same column, its head column N - S + k. -/
theorem owns_left {k S : Nat} (width : (derivedOverlap (g.head p) (g.head q)).toNat = S)
    (fits : (leftOverlap g.heads p).toNat + S ≤ (g.head p).nozzles) :
    g.owns p ((g.head p).nozzles - S + k) =
      fallback (!g.rightOwns k S) (g.status p ((g.head p).nozzles - S + k)) (g.status q k) := by
  have overlap : (rightOverlap g.heads p).toNat = S := by rw [pair.rightOverlap_eq, width]
  subst overlap
  simp [owns, g.zone_of_right p fits, pair.rightKind, pair.rightPort]

/-- Exactly one head of the pair owns each zone column. -/
theorem owns_left_eq_not_owns_right {k S : Nat} (width : (derivedOverlap (g.head p) (g.head q)).toNat = S) (h : k < S)
    (fits : (leftOverlap g.heads p).toNat + S ≤ (g.head p).nozzles) :
    g.owns p ((g.head p).nozzles - S + k) = !g.owns q k := by
  rw [pair.owns_left width fits, pair.owns_right width h, fallback_not]

end LocalPair

/-! ### A column that the head does not own -/

theorem eligible_iff (j : Nat) :
    g.eligible p j = true ↔ j < (g.head p).nozzles ∧ g.status p j = 0 ∧ g.owns p j = true := by
  simp [eligible, and_assoc]

theorem leftSide_eq_some_iff (i j : Nat) : g.leftSide p i = some j ↔ i = j + 1 ∧ g.eligible p j = true := by
  cases i with
  | zero => simp [leftSide]
  | succ i =>
    simp only [leftSide, Nat.add_sub_cancel, Option.ite_none_right_eq_some, Option.some.injEq]
    constructor
    · rintro ⟨⟨-, ok⟩, rfl⟩
      exact ⟨rfl, ok⟩
    · rintro ⟨same, ok⟩
      obtain rfl : i = j := by omega
      exact ⟨⟨by omega, ok⟩, rfl⟩

theorem rightSide_eq_some_iff (i j : Nat) : g.rightSide p i = some j ↔ j = i + 1 ∧ g.eligible p j = true := by
  simp only [rightSide, Option.ite_none_right_eq_some, Option.some.injEq]
  constructor
  · rintro ⟨ok, rfl⟩
    exact ⟨rfl, ok⟩
  · rintro ⟨rfl, ok⟩
    exact ⟨ok, rfl⟩

/-- A receiver is an eligible neighbour of its donor (R72). -/
theorem receiver_eq_some {i j : Nat} (h : g.receiver p i = some j) :
    (i = j + 1 ∨ j = i + 1) ∧ g.eligible p j = true := by
  have side : g.leftSide p i = some j ∨ g.rightSide p i = some j := by
    unfold receiver at h
    split at h
    · exact (Option.or_eq_some_iff.1 h).imp_right And.right
    · exact ((Option.or_eq_some_iff.1 h).imp_right And.right).symm
  obtain left | right := side
  · obtain ⟨next, ok⟩ := (g.leftSide_eq_some_iff p i j).1 left
    exact ⟨.inl next, ok⟩
  · obtain ⟨next, ok⟩ := (g.rightSide_eq_some_iff p i j).1 right
    exact ⟨.inr next, ok⟩

theorem gift_of_not_eligible (i : Nat) {j : Nat} (h : ¬ g.eligible p j = true) : g.gift p i j = 0 :=
  if_neg fun ⟨_, received⟩ => h (g.receiver_eq_some p received).2

theorem finalCode_of_not_owns {j : Nat} (h : g.owns p j = false) : g.finalCode p j = 0 := by
  have noGift : ∀ i, g.gift p i j = 0 := fun i => g.gift_of_not_eligible p i (by simp [eligible, h])
  simp [finalCode, postStitch, h, noGift]

/-- No column of a LOCAL pair's zone holds a drop in both heads. -/
theorem LocalPair.finalCode_zero_or_zero {g : Landing} {p q : PortIx} (pair : g.LocalPair p q) {k S : Nat}
    (width : (derivedOverlap (g.head p) (g.head q)).toNat = S) (h : k < S)
    (fits : (leftOverlap g.heads p).toNat + S ≤ (g.head p).nozzles) :
    g.finalCode p ((g.head p).nozzles - S + k) = 0 ∨ g.finalCode q k = 0 := by
  have divided := pair.owns_left_eq_not_owns_right width h fits
  cases owner : g.owns q k with
  | false => exact .inr (g.finalCode_of_not_owns q owner)
  | true => exact .inl (g.finalCode_of_not_owns p (by rw [divided, owner]; rfl))

end Landing

/-- Settles O54: the shares by arithmetic, and each zone's owner by where the head column lies. -/
theorem stitchZoneDivides : Obligations.StitchZoneDivides := by
  unfold Obligations.StitchZoneDivides
  refine ⟨?share, by decide, fun _ _ _ => rfl, fun _ _ _ => rfl, fun g p _ => g.owns_of_between p,
    fun g p _ => g.owns_remote_left p, fun g p _ remote _ fits => g.owns_remote_right p remote fits, ?pair⟩
  case share =>
    intro S k pos small inZone
    refine ⟨rfl, share_pos k pos small, share_le inZone, fun later => ?_⟩
    obtain ⟨k, rfl⟩ := Nat.exists_eq_succ_of_ne_zero (Nat.ne_of_gt later)
    exact share_lt_share_succ k pos small
  case pair =>
    intro g p q k rightKind rightPort leftKind leftPort S j failing inZone fits _
    have pair : g.LocalPair p q := ⟨rightKind, rightPort, leftKind, leftPort⟩
    refine ⟨?_, pair.owns_left_eq_not_owns_right rfl inZone fits, pair.finalCode_zero_or_zero rfl inZone fits⟩
    rw [pair.owns_right rfl inZone, fallback_iff]
    simp only [failed_iff, failing, S, j]

end Sys2Proof.Machine
end

section
/-! PROOFS. Pixels, tones and nozzle status (R66, R67, R71 to R73): a pixel's range, the receiver of a drop, and the final code. -/

namespace Sys2Proof.Machine

/-! ### Pixels and tones (R66, R67) -/

theorem bodyBits_lt (body : List Byte) (i n : Nat) : bodyBits body i n < 2 ^ n := by
  induction n with
  | zero => simp [bodyBits]
  | succ n ih =>
    simp only [bodyBits, Nat.pow_succ]
    split <;> omega

theorem toneOf_eq {depth : Nat} (v : Nat) (h : depth = 1 ∨ depth = 2 ∨ depth = 4) :
    toneOf depth v = (if depth = 1 then 15 else if depth = 2 then 5 else 1) * v := by
  obtain rfl | rfl | rfl := h <;> simp [toneOf]

theorem toneOf_one (v : Nat) : toneOf 1 v = 15 * v := rfl

theorem toneOf_two (v : Nat) : toneOf 2 v = 5 * v := rfl

theorem default_code {t : Nat} (h : t < 16) : PlaneTable.default.code t = t / 4 := by
  revert t
  decide

namespace Landing
variable (g : Landing) (p : PortIx)

/-! ### Donors and receivers (R72) -/

theorem donor_iff (j : Nat) : g.donor p j = true ↔
    j < (g.head p).nozzles ∧ g.status p j = 2 ∧ g.owns p j = true ∧ 0 < g.postStitch p j := by
  simp [donor, and_assoc]

theorem leftSide_of_eligible {j : Nat} (h : 0 < j ∧ g.eligible p (j - 1) = true) : g.leftSide p j = some (j - 1) := if_pos h

theorem leftSide_of_not_eligible {j : Nat} (h : ¬ (0 < j ∧ g.eligible p (j - 1) = true)) : g.leftSide p j = none := if_neg h

theorem rightSide_of_eligible {j : Nat} (h : g.eligible p (j + 1) = true) : g.rightSide p j = some (j + 1) := if_pos h

theorem rightSide_of_not_eligible {j : Nat} (h : ¬ g.eligible p (j + 1) = true) : g.rightSide p j = none := if_neg h

theorem receiver_eq_left {j : Nat} (left : 0 < j ∧ g.eligible p (j - 1) = true)
    (first : g.line % 2 = 0 ∨ ¬ g.eligible p (j + 1) = true) : g.receiver p j = some (j - 1) := by
  obtain even | noRight := first
  · simp [receiver, even, g.leftSide_of_eligible p left]
  · simp [receiver, g.leftSide_of_eligible p left, g.rightSide_of_not_eligible p noRight]

theorem receiver_eq_right {j : Nat} (right : g.eligible p (j + 1) = true)
    (first : ¬ g.line % 2 = 0 ∨ ¬ (0 < j ∧ g.eligible p (j - 1) = true)) : g.receiver p j = some (j + 1) := by
  obtain odd | noLeft := first
  · simp only [receiver, if_neg odd, g.rightSide_of_eligible p right, Option.some_or]
  · simp [receiver, g.rightSide_of_eligible p right, g.leftSide_of_not_eligible p noLeft]

theorem receiver_eq_none {j : Nat} (noLeft : ¬ (0 < j ∧ g.eligible p (j - 1) = true))
    (noRight : ¬ g.eligible p (j + 1) = true) : g.receiver p j = none := by
  simp [receiver, g.leftSide_of_not_eligible p noLeft, g.rightSide_of_not_eligible p noRight]

/-- A receiver is GOOD, so an OFF column is none. -/
theorem receiver_ne_of_off {j : Nat} (off : g.status p j = 3) (i : Nat) : g.receiver p i ≠ some j := by
  intro received
  obtain ⟨-, good, -⟩ := (g.eligible_iff p j).1 (g.receiver_eq_some p received).2
  omega

theorem not_donor_of_off {j : Nat} (off : g.status p j = 3) : g.donor p j = false := by simp [donor, off]

/-! ### The final code (R71, R73) -/

theorem finalCode_of_donor {j : Nat} (h : g.donor p j = true) : g.finalCode p j = 0 := if_pos (.inr h)

theorem finalCode_of_off {j : Nat} (h : g.status p j = 3) : g.finalCode p j = 0 := if_pos (.inl h)

theorem finalCode_le (j : Nat) : g.finalCode p j ≤ 3 := by
  unfold finalCode
  split
  · exact Nat.zero_le _
  · exact Nat.min_le_left _ _

/-- A column receives from its two neighbours at most. -/
theorem gift_of_not_neighbour {i j : Nat} (left : i ≠ j + 1) (right : j ≠ i + 1) : g.gift p i j = 0 :=
  if_neg fun ⟨_, received⟩ => (g.receiver_eq_some p received).1.elim left right

theorem gift_of_outside {i : Nat} (j : Nat) (h : (g.head p).nozzles ≤ i) : g.gift p i j = 0 :=
  if_neg fun ⟨gives, _⟩ => Nat.not_lt.2 h ((g.donor_iff p i).1 gives).1

/-- Column 0 has no left neighbour, and gives itself nothing. -/
theorem gift_from_left (j : Nat) : (if 0 < j then g.gift p (j - 1) j else 0) = g.gift p (j - 1) j := by
  cases j with
  | zero => simp [g.gift_of_not_neighbour p (i := 0) (j := 0)]
  | succ j => simp

/-- All that a column receives, as one sum over the head's donors. -/
theorem sum_gift (j : Nat) :
    ∑ i ∈ Finset.range (g.head p).nozzles, g.gift p i j = g.gift p (j - 1) j + g.gift p (j + 1) j := by
  refine Finset.sum_eq_add (j - 1) (j + 1) (by omega) ?_ ?_ ?_
  · rintro i - ⟨notLeft, notRight⟩
    exact g.gift_of_not_neighbour p notRight (by omega)
  · exact fun outside => g.gift_of_outside p j (by simpa using outside)
  · exact fun outside => g.gift_of_outside p j (by simpa using outside)

theorem sum_received_eq_sum_gift (j : Nat) :
    (((List.range (g.head p).nozzles).filter (fun i => g.donor p i && g.receiver p i == some j)).map (g.postStitch p)).sum =
      ∑ i ∈ Finset.range (g.head p).nozzles, g.gift p i j := by
  rw [← List.sum_toFinset _ (List.nodup_range.filter _), List.toFinset_filter, List.toFinset_range, Finset.sum_filter]
  simp [gift]

theorem finalCode_of_kept {j : Nat} (notOff : g.status p j ≠ 3) (keeps : g.donor p j = false) :
    g.finalCode p j = min 3 (g.postStitch p j +
      (((List.range (g.head p).nozzles).filter (fun i => g.donor p i && g.receiver p i == some j)).map (g.postStitch p)).sum) := by
  have kept : ¬ (g.status p j = 3 ∨ g.donor p j = true) := by simp [notOff, keeps]
  rw [sum_received_eq_sum_gift, sum_gift, finalCode, if_neg kept, gift_from_left, Nat.add_assoc]

theorem lostDrops_eq : g.lostDrops p =
    ((List.range (g.head p).nozzles).filter (fun j => g.donor p j && g.receiver p j == none)).length := by
  simp [lostDrops]

end Landing

/-- Settles O55: the code by the depth's tone, the receiver by the sides that are eligible, and what a column receives by the two
neighbours that can give to it. -/
theorem codesFollowToneAndStatus : Obligations.CodesFollowToneAndStatus := by
  unfold Obligations.CodesFollowToneAndStatus
  refine ⟨?tone, ?defaultMap, ?status⟩
  case tone =>
    rintro g p j depth rfl legal v
    refine ⟨bodyBits_lt _ _ _, ?_⟩
    rw [← toneOf_eq v legal]
    rfl
  case defaultMap =>
    intro v t small
    refine ⟨default_code small, ?_, ?_⟩
    · rintro bit rfl
      refine ⟨rfl, ?_⟩
      rw [toneOf_one, default_code (by omega)]
      omega
    · rintro bits rfl
      refine ⟨rfl, ?_⟩
      rw [toneOf_two, default_code (by omega)]
      omega
  case status =>
    intro g p N takes
    have takes_iff (i : Nat) : takes i ↔ g.eligible p i = true := (g.eligible_iff p i).symm
    refine ⟨g.donor_iff p, ?_, fun _ => g.finalCode_of_donor p, fun _ => g.finalCode_of_kept p,
      fun j off => ⟨g.finalCode_of_off p off, g.not_donor_of_off p off, g.receiver_ne_of_off p off⟩,
      g.finalCode_le p, g.lostDrops_eq p⟩
    intro j
    simp only [takes_iff]
    exact ⟨g.receiver_eq_left p, g.receiver_eq_right p, g.receiver_eq_none p⟩

end Sys2Proof.Machine
end

section
/-! PROOFS. Orders of Page Control: an order whose effect leaves the Chain Port and the Line Store, and ANNOUNCE (R125). -/

namespace Sys2Proof.Machine

/-! ### Orders with an effect (R22 to R24) -/

theorem OrderParcel.word_zero_of_body {o : OrderParcel} {w : Word} {ws : List Word} (body : o.body = w :: ws) : o.word 0 = w := by
  simp [OrderParcel.word, body]

theorem checkedBody_of_fits (run : OrderParcel → Device → Device) {o : OrderParcel} (fits : o.fits = true) (d : Device) :
    checkedBody run o d = run o d := if_pos fits

/-- An order answered at once after an effect `e` that leaves the Chain Port and the Line Store: the arbiters choose nothing but the
reply for a free up lane (R17, R22, R24). -/
theorem State.run_answered_after {s : State} {o : OrderParcel} {rest : List OrderPlace} (offered : s.dev.offers o rest)
    {kind : OrderParcel → Bool} (ofKind : kind o = true) {run : OrderParcel → Device → Device} {e : Device} {st : Status}
    {body : List Word} (answers : run o (s.dev.withoutFront rest) = e.reply o.hdr st body)
    (sameCp : e.cp = (s.dev.withoutFront rest).cp) (sameLs : e.ls = s.dev.ls) :
    s.run (fun d => d.takeOrder kind run) =
      .next { s with dev := { e with cp := s.dev.cp.answered rest o.hdr st body } } := by
  have settled : s.dev.settled := offered.1.2
  have sameReturn : e.cp.returnQ = s.dev.cp.returnQ := by rw [sameCp]
  have sameSending : e.cp.upSending = s.dev.cp.upSending := by rw [sameCp]
  rw [State.run_takeOrder s o rest offered kind run ofKind, answers, Device.reply,
    Device.settle_pushReply e s.dev settled sameLs sameReturn sameSending, sameCp]
  rfl

/-! ### The record of an ANNOUNCE (R28, R125) -/

theorem Device.clamped_eq (d : Device) : d.clamped =
    { d with ou := { d.ou with devEvents := d.ou.devEvents ||| 32, devCounts := d.clamped.ou.devCounts } } := rfl

theorem counted_clamped (d : Device) : counted d d.clamped (fun c => if c = .clampedWrites then 1 else 0) :=
  counted_count (d.setEvent .clampedWrite) .clampedWrites 1

/-- Page Control with a record for `tag` behind the others. -/
abbrev PageControl.announced (pc : PageControl) (tag : Tag) (length : Nat) : PageControl :=
  { pc with queue := pc.queue ++ [announcedRec tag length] }

theorem Device.announcePage_zero (d : Device) (tag : Tag) :
    d.announcePage tag 0 = ({ d with pc := d.pc.announced tag 0 } : Device).clamped := rfl

theorem Device.announcePage_pos (d : Device) (tag : Tag) {length : Nat} (pos : length ≠ 0) :
    d.announcePage tag length = { d with pc := d.pc.announced tag length } := if_neg pos

/-- The record joins the queue, and only a length of 0 touches the Order Unit. -/
theorem Device.announcePage_eq (d : Device) (tag : Tag) (length : Nat) : d.announcePage tag length =
    { d with
      pc := d.pc.announced tag length
      ou := { d.ou with
        devEvents := if length = 0 then d.ou.devEvents ||| 32 else d.ou.devEvents
        devCounts := (d.announcePage tag length).ou.devCounts } } := by
  by_cases zero : length = 0
  · subst zero
    rw [d.announcePage_zero, if_pos rfl]
    exact Device.clamped_eq _
  · rw [d.announcePage_pos tag zero, if_neg zero]

theorem counted_announcePage (d : Device) (tag : Tag) (length : Nat) :
    counted d (d.announcePage tag length) (fun c => if c = .clampedWrites ∧ length = 0 then 1 else 0) := by
  by_cases zero : length = 0
  · subst zero
    rw [d.announcePage_zero]
    exact counted_congr (counted_clamped { d with pc := d.pc.announced tag 0 }) (by simp)
  · rw [d.announcePage_pos tag zero]
    exact counted_congr (counted_same d { d with pc := d.pc.announced tag length } rfl) (by simp [zero])

theorem Device.announcePage_cp (d : Device) (tag : Tag) (length : Nat) : (d.announcePage tag length).cp = d.cp := by
  rw [d.announcePage_eq]

theorem Device.announcePage_ls (d : Device) (tag : Tag) (length : Nat) : (d.announcePage tag length).ls = d.ls := by
  rw [d.announcePage_eq]

theorem announcedRec_eq (tag : Tag) (length : Nat) : announcedRec tag length =
    { tag := tag, length := max length 1, state := .announced, starved := 0, skipped := 0 } := by
  rw [announcedRec, Nat.max_comm]

/-! ### The refusals of an ANNOUNCE in order (R125) -/

section Refusals
variable {o : OrderParcel} {d : Device}

theorem any_tag_eq_true_iff (queue : List PageRec) (tag : Tag) :
    queue.any (fun q => q.tag == tag) = true ↔ ∃ q ∈ queue, q.tag = tag := by simp

theorem announceOrder_of_not_run (idle : d.pc.job ≠ .run) : announceOrder o d = d.reply o.hdr .notRunning [] := if_pos idle

theorem announceOrder_of_held (run : d.pc.job = .run) (held : ∃ q ∈ d.pc.queue, q.tag = o.pageTag) :
    announceOrder o d = d.reply o.hdr .dupTag [] := by
  rw [announceOrder, if_neg (not_not.2 run), if_pos ((any_tag_eq_true_iff _ _).2 held)]

theorem announceOrder_of_full (run : d.pc.job = .run) (fresh : ¬ ∃ q ∈ d.pc.queue, q.tag = o.pageTag)
    (full : 16 ≤ d.pc.queue.length) : announceOrder o d = d.reply o.hdr .queueFull [] := by
  rw [announceOrder, if_neg (not_not.2 run), if_neg (mt (any_tag_eq_true_iff _ _).1 fresh)]
  exact if_pos full

theorem announceOrder_of_room (run : d.pc.job = .run) (fresh : ¬ ∃ q ∈ d.pc.queue, q.tag = o.pageTag)
    (room : d.pc.queue.length < 16) :
    announceOrder o d = (d.announcePage o.pageTag o.pageLength).reply o.hdr .ok [] := by
  rw [announceOrder, if_neg (not_not.2 run), if_neg (mt (any_tag_eq_true_iff _ _).1 fresh)]
  exact if_neg (Nat.not_le.2 room)

end Refusals

/-! ### ANNOUNCE -/

/-- An ANNOUNCE of one body word is answered as `announceOrder` judges it, after its effect `e` (R23, R125). -/
theorem exec_announce_of_answers {s : State} {o : OrderParcel} {rest : List OrderPlace} {w : Word} (offered : s.dev.offers o rest)
    (code : o.hdr.code = 7) (body : o.body = [w]) {e : Device} {st : Status}
    (answers : announceOrder o (s.dev.withoutFront rest) = e.reply o.hdr st [])
    (sameCp : e.cp = (s.dev.withoutFront rest).cp) (sameLs : e.ls = s.dev.ls) :
    exec .announce s = .next { s with dev := { e with cp := s.dev.cp.answered rest o.hdr st [] } } := by
  have ofKind : o.isCode 7 = true := by simp [OrderParcel.isCode, code]
  have fits : o.fits = true := by simp [OrderParcel.fits, bodyFits, code, body]
  exact State.run_answered_after offered ofKind ((checkedBody_of_fits _ fits _).trans answers) sameCp sameLs

/-- Settles O31: one case per answer of ANNOUNCE, in the order in which they are judged. -/
theorem announceJudged : Obligations.AnnounceJudged := by
  unfold Obligations.AnnounceJudged
  intro s o rest w offered code body tag length held
  have tag_eq : o.pageTag = tag := by rw [OrderParcel.pageTag, OrderParcel.word_zero_of_body body]
  have length_eq : o.pageLength = length := by rw [OrderParcel.pageLength, OrderParcel.word_zero_of_body body]
  have refused {st : Status} (answers : announceOrder o (s.dev.withoutFront rest) = (s.dev.withoutFront rest).reply o.hdr st []) :
      exec .announce s = .next (s.answering rest o.hdr st []) :=
    exec_announce_of_answers (e := s.dev.withoutFront rest) offered code body answers rfl rfl
  refine ⟨?notRun, ?dup, ?full, ?accepted⟩
  case notRun => exact fun idle => refused (announceOrder_of_not_run idle)
  case dup => exact fun run isHeld => refused (announceOrder_of_held run (by rwa [tag_eq]))
  case full => exact fun run fresh full => refused (announceOrder_of_full run (by rwa [tag_eq]) full)
  case accepted =>
    intro run fresh room
    have answers := announceOrder_of_room (d := s.dev.withoutFront rest) run (by rwa [tag_eq]) room
    rw [tag_eq, length_eq] at answers
    refine ⟨_, exec_announce_of_answers offered code body answers (Device.announcePage_cp ..) (Device.announcePage_ls ..), ?_,
      counted_announcePage (s.dev.withoutFront rest) tag length⟩
    rw [← announcedRec_eq]
    conv_lhs => rw [Device.announcePage_eq]

end Sys2Proof.Machine
end

section
/-! PROOFS. The row fetch queue (R93): a state that the kept properties allow in which a row asks for a fetch twice. -/

namespace Sys2Proof.Machine

/-- The record of a page of two lines that is bound so that its first line is position 1. -/
def twiceAskedPage : PageRec := { tag := 0, length := 2, state := .bound 1, starved := 0, skipped := 0 }

/-- A ring that holds the second line of that page, landed. -/
def twiceAskedRing : Ring :=
  { base := 0, segments := 1, slotBytes := 64, blockBytes := 4, capacity := 16383, rowCount := 1, oldest := 0
    slots := [{ tag := 0, line := 1, state := .landed, done := .replicate 4 false }] }

/-- A fetch of row 0 of port 0 in service. -/
def twiceAskedFetch : Fetch := { port := 0, row := 0, tag := 0, line := 0, addr := 0, len := 4, live := true }

/-- A running job with row 0 of port 0 printing. The row's fetch is in service, but its stage is STAGED already; the kept properties
do not exclude it. The port has sent the last symbol of the frame of position 0. -/
def twiceAsked : Device :=
  let d := State.reset.dev
  { d with
    tab := { d.tab with heads := vset d.tab.heads 0 { HeadDescr.default with enabled := true } }
    ls := { d.ls with rings := vset d.ls.rings 0 (some twiceAskedRing), service := some (.fetch twiceAskedFetch) }
    pc := { d.pc with job := .run, queue := [twiceAskedPage] }
    rf := rmod d.rf 0 0 (fun q => { q with stage := .staged 1 none, latch := .sending 0 })
    hp := vmod d.hp 0 (fun hp => { hp with
      state := .ready
      current := .frame (.code 0)
      progress := some { row := 0, stale := false, left := [] } }) }

/-- FRAME_SENT on that device. -/
def twiceAskedState : State := { dev := twiceAsked, pending := [.frameSent 0] }

theorem step_twiceAskedState : step twiceAskedState = .next { dev := (twiceAsked.frameSent 0).settle, pending := [] } := rfl

theorem twiceAsked_kept : twiceAsked.queuesFit ∧ twiceAsked.ringsFit ∧ twiceAsked.intakeFits ∧ twiceAsked.writesFit ∧
    twiceAsked.fetchesFit ∧ twiceAsked.settled := by decide +kernel

/-- The staged line is handed over, the row resolves its next line and asks for it, while its fetch is in service still. -/
theorem twiceAsked_asks : (twiceAsked.frameSent 0).settle.pc.job ≠ .config ∧ (twiceAsked.frameSent 0).settle.printing 0 0 = true ∧
    (twiceAsked.frameSent 0).settle.ls.fetchingFor 0 0 = true ∧
    (twiceAsked.frameSent 0).settle.ls.fetchQ.all (fun f => !f.isFor 0 0) = false := by decide +kernel

/-- Refutes O59: `fetchesFit` allows a live fetch in service for a row whose stage is not FETCHING, and such a row asks again. -/
theorem not_queuesNeverOverflow : ¬ Obligations.QueuesNeverOverflow := by
  unfold Obligations.QueuesNeverOverflow
  intro keeps
  obtain ⟨-, -, -, -, fetches, -⟩ := keeps twiceAskedState _ twiceAsked_kept step_twiceAskedState
  obtain ⟨-, -, -, -, idle⟩ := fetches
  obtain ⟨job, printing, serving, asked⟩ := twiceAsked_asks
  exact Bool.false_ne_true (asked.symm.trans (idle job 0 0 printing (.inr serving)))

end Sys2Proof.Machine
end

section
/-! PROOFS. What a step can do, said once: a command's effect on the device, the arbiters' choices after it, or a tick. -/

namespace Sys2Proof.Machine

/-! ### The effect of a command -/

/-- A command that acts without the arbiters' choices after it: the pin, and the levels of the inputs. -/
def ofInputs : Instr → Bool
  | .resetPinAssert => true
  | .resetPinRelease _ => true
  | .encoderInputChange _ _ => true
  | .pdiLevelChange _ => true
  | _ => false

/-- A command that completes a transfer at the memory. -/
def ofMemory : Instr → Bool
  | .windowReadComplete => true
  | .landingWriteComplete => true
  | .rowFetchComplete => true
  | _ => false

/-- What a command makes of the device, before the arbiters choose. -/
def Device.effect (d : Device) (c : Instr) : Device :=
  match c with
  | .resetPinAssert => d.pinAssert
  | .resetPinRelease straps => if d.resetPin then d.toPinReset straps else d
  | .downLaneSync => { d with cp := { d.cp with downSync := .inSync } }
  | .downLaneLost part => d.onDown (fun d => d.downLost part)
  | .downSymbolError part => d.onDown (fun d => (d.count .downSymbolErrors 1).endPart part)
  | .downParcelAborted part => d.onDown (fun d => d.endPart part)
  | .shortHeaderParcel => d.onDown (fun d => (d.abortOpen []).count .downBadParcels 1)
  | .lineParcelHeader hdr => d.onDown (fun d => d.lineHeader hdr)
  | .lineParcelEnd bytes => d.onDown (fun d => d.lineEnd bytes)
  | .orderParcelHeader hdr => d.onDown (fun d => d.orderHeader hdr)
  | .orderParcelEnd bytes => d.onDown (fun d => d.orderEnd bytes)
  | .numberParcel value part => d.onDown (fun d => d.number value part)
  | .badKindParcel kind => d.onDown (fun d =>
      if (Instr.badKindParcel kind).wellFormed then
        { (d.abortOpen []).count .downBadParcels 1 with
          cp := { ((d.abortOpen []).count .downBadParcels 1).cp with rx := .refused } }
      else d)
  | .returnInSync => { d with cp := { d.cp with returnSync := .inSync } }
  | .returnInLost => d.onReturn Device.returnLost
  | .returnSymbolError => d.onReturn (fun d => (d.count .returnErrors 1).discardReturn)
  | .returnParcelStart => d.onReturn Device.returnStart
  | .returnParcelEnd bytes closing => d.onReturn (fun d => d.returnEnd bytes closing)
  | .upLaneParcelSent => d.upSent
  | .unknownOrderCode => d.takeOrder (fun o => !knownCode o.hdr.code) (fun o d => d.reply o.hdr .badOrder [])
  | .read => d.takeOrder OrderParcel.isRead (checkedBody readOrder)
  | .readWindow => d.takeOrder OrderParcel.isReadWindow (checkedBody readWindowOrder)
  | .windowReadComplete =>
    match d.ls.service with
    | some (.window w r0 r1 addr) => d.windowDone w r0 r1 addr
    | _ => d
  | .write => d.takeOrder OrderParcel.isWrite (checkedBody writeOrder)
  | .writeEnabledWord => d.takeOrder (·.writesDescr 0) (checkedBody writeOrder)
  | .writeWaveforms => d.takeOrder OrderParcel.writesWaves (checkedBody writeOrder)
  | .writeTestMode => d.takeOrder (·.writesDescr 13) (checkedBody writeOrder)
  | .writeSettleTime => d.takeOrder (·.writesDescr 15) (checkedBody writeOrder)
  | .writeIdleTickleInterval => d.takeOrder (·.writesDescr 14) (checkedBody writeOrder)
  | .writeMask => d.takeOrder OrderParcel.writesMask (checkedBody writeOrder)
  | .readClearCounters => d.takeOrder OrderParcel.isClearCounters (checkedBody readClearOrder)
  | .readClearEvents => d.takeOrder OrderParcel.isClearEvents (checkedBody readClearOrder)
  | .startJob => d.takeOrder (·.isCode 4) (checkedBody startOrder)
  | .stopJob => d.takeOrder (·.isCode 5) (checkedBody stopOrder)
  | .abortJob => d.takeOrder (·.isCode 6) (checkedBody abortOrder)
  | .announce => d.takeOrder (·.isCode 7) (checkedBody announceOrder)
  | .go => d.takeOrder (·.isCode 8) (checkedBody goOrder)
  | .loadWaves => d.takeOrder (·.isCode 9) (checkedBody loadWavesOrder)
  | .unpark => d.takeOrder (·.isCode 10) (checkedBody unparkOrder)
  | .resetOrder => d.takeOrder (·.isCode 11) (checkedBody resetOrderEffect)
  | .pickup => d.pickup
  | .landingWriteRaised => d.raiseWrite
  | .landingWriteComplete =>
    match d.ls.service with
    | some (.landWrite w) => d.landWriteDone w
    | _ => d
  | .rowFetchComplete =>
    match d.ls.service with
    | some (.fetch f) => d.fetchDone f
    | _ => d
  | .filteredTransition order => d.filteredTransition order
  | .interpolationTimerExpiry port row => d.inRowOrder (d.timerExpiry port row)
  | .holdRelease port row => if d.holdDue port row then d.releaseHold port row else d
  | .pdiLevelChange level => d.pdiChange level
  | .pdiQualifyExpiry => d.pdiExpiry
  | .frameSent port => d.frameSent port
  | .fireTokenSent port =>
    if (d.port port).sendingFire then (d.fireSent port).boundary port
    else if (d.port port).inFrame && (d.port port).fireNext then ((d.boundary port).fireSent port).boundary port
    else d
  | .headReturnLaneSync port => d.modPort port HeadPort.laneSync
  | .headReturnLaneLost port => d.laneLost port
  | .ack port byte => d.receive port byte none HeadMessage.ackRow (fun _ => id)
  | .waveAck port byte => d.receive port byte none HeadMessage.waveIndex (fun i d => d.waveAck port i)
  | .headFault port bytes => d.receive port bytes.first bytes.code HeadMessage.faultCode (fun c d => d.headFault port c)
  | .loadTimerExpiry port => d.loadExpiry port
  | .idleTickleExpiry port => d.tickleAll port
  | .encoderInputChange channel level => d.sampleChannel channel level
  | .symbolBoundary port =>
    if (d.port port).sendingFire || (d.port port).atFrameEnd then d else d.boundary port

/-- Every command but those of the pin, the inputs and the memory runs its effect. -/
theorem exec_eq_run (c : Instr) (s : State) (settles : ofInputs c = false) (elsewhere : ofMemory c = false) :
    exec c s = s.run (fun d => d.effect c) := by
  cases c with
  | resetPinAssert => cases settles
  | resetPinRelease straps => cases settles
  | encoderInputChange channel level => cases settles
  | pdiLevelChange level => cases settles
  | windowReadComplete => cases elsewhere
  | landingWriteComplete => cases elsewhere
  | rowFetchComplete => cases elsewhere
  | _ => rfl

/-- A command's outcome, by the effect: the device stays, or the effect is taken and, but for the pin and the inputs, settled. -/
def State.Outcomes (c : Instr) (s t : State) : Prop :=
  t = s ∨ (ofInputs c = true ∧ t = { s with dev := s.dev.effect c }) ∨
    (ofInputs c = false ∧ s.dev.resetPin = false ∧ t = { s with dev := (s.dev.effect c).settle })

theorem State.run_next {s t : State} {f : Device → Device} (h : s.run f = .next t) :
    t = s ∨ (s.dev.resetPin = false ∧ t = { s with dev := (f s.dev).settle }) := by
  cases pin : s.dev.resetPin with
  | true =>
    rw [State.run_held _ _ pin] at h
    exact .inl (Host.Outcome.next.inj h).symm
  | false =>
    rw [State.run_released _ _ pin] at h
    exact .inr ⟨rfl, (Host.Outcome.next.inj h).symm⟩

/-- A command that runs an effect and settles. -/
theorem State.outcomes_of_run {c : Instr} {s t : State} {f : Device → Device} (settles : ofInputs c = false)
    (eff : f s.dev = s.dev.effect c) (h : s.run f = .next t) : s.Outcomes c t := by
  rcases State.run_next h with same | ⟨pin, eq⟩
  · exact .inl same
  · exact .inr (.inr ⟨settles, pin, eff ▸ eq⟩)

theorem exec_windowReadComplete_next {s t : State} (h : exec .windowReadComplete s = .next t) :
    s.Outcomes .windowReadComplete t := by
  change execWindowReadComplete s = .next t at h
  unfold execWindowReadComplete at h
  split at h
  · next w r0 r1 addr served =>
    split at h
    · exact State.outcomes_of_run rfl (by simp [Device.effect, served]) h
    · cases h
  · next other => exact State.outcomes_of_run rfl (by simp [Device.effect]) h

theorem exec_landingWriteComplete_next {s t : State} (h : exec .landingWriteComplete s = .next t) :
    s.Outcomes .landingWriteComplete t := by
  change execLandingWriteComplete s = .next t at h
  unfold execLandingWriteComplete at h
  split at h
  · next w served =>
    split at h
    · exact State.outcomes_of_run rfl (by simp [Device.effect, served]) h
    · cases h
  · next other => exact State.outcomes_of_run rfl (by simp [Device.effect]) h

theorem exec_rowFetchComplete_next {s t : State} (h : exec .rowFetchComplete s = .next t) :
    s.Outcomes .rowFetchComplete t := by
  change execRowFetchComplete s = .next t at h
  unfold execRowFetchComplete at h
  split at h
  · next f served =>
    split at h
    · exact State.outcomes_of_run rfl (by simp [Device.effect, served]) h
    · cases h
  · next other => exact State.outcomes_of_run rfl (by simp [Device.effect]) h

theorem exec_resetPinAssert_next {s t : State} (h : exec .resetPinAssert s = .next t) : s.Outcomes .resetPinAssert t := by
  cases pin : s.dev.resetPin with
  | true => exact .inl (Host.Outcome.next.inj ((s.act_held _ pin).symm.trans h)).symm
  | false => exact .inr (.inl ⟨rfl, (Host.Outcome.next.inj ((s.act_released _ pin).symm.trans h)).symm⟩)

/-- Every command that goes on has one of three outcomes. -/
theorem exec_next (c : Instr) {s t : State} (h : exec c s = .next t) : s.Outcomes c t := by
  cases c with
  | resetPinAssert => exact exec_resetPinAssert_next h
  | resetPinRelease straps => exact .inr (.inl ⟨rfl, (Host.Outcome.next.inj h).symm⟩)
  | encoderInputChange channel level => exact .inr (.inl ⟨rfl, (Host.Outcome.next.inj h).symm⟩)
  | pdiLevelChange level => exact .inr (.inl ⟨rfl, (Host.Outcome.next.inj h).symm⟩)
  | windowReadComplete => exact exec_windowReadComplete_next h
  | landingWriteComplete => exact exec_landingWriteComplete_next h
  | rowFetchComplete => exact exec_rowFetchComplete_next h
  | _ => exact State.outcomes_of_run rfl rfl ((exec_eq_run _ s rfl rfl).symm.trans h)

/-! ### What every step keeps -/

/-- A property that the arbiters, a tick and every command's effect keep is kept by every step. -/
theorem step_keeps {P : Device → Prop} (settle : ∀ d, P d → P d.settle) (tick : ∀ d, P d → P d.tick)
    (effect : ∀ (c : Instr) (d : Device), P d → P (d.effect c)) {s t : State} (h : P s.dev) (stepped : step s = .next t) :
    P t.dev := by
  have ofExec : ∀ (c : Instr) (u : State), P u.dev → exec c u = .next t → P t.dev := by
    intro c u hu he
    rcases exec_next c he with rfl | ⟨-, rfl⟩ | ⟨-, -, rfl⟩
    · exact hu
    · exact effect c _ hu
    · exact settle _ (effect c _ hu)
  unfold step at stepped
  split at stepped
  · next c rest _ => exact ofExec c { s with pending := rest } h stepped
  · split at stepped
    · exact ofExec _ _ h stepped
    · cases stepped
      exact tick _ h

/-- Taking an order keeps what popping it and every order of the kind keep. -/
theorem Device.takeOrder_keeps {P : Device → Prop} {d : Device} {kind : OrderParcel → Bool} {run : OrderParcel → Device → Device}
    (same : P d) (ran : ∀ o, d.takeable = some o → kind o = true → P (run o { d with cp := { d.cp with orderQ := d.cp.orderQ.tail } })) :
    P (d.takeOrder kind run) := by
  unfold Device.takeOrder
  split
  · next o taken =>
    split
    · next ofKind => exact ran o taken ofKind
    · exact same
  · exact same

/-- An order whose body does not fit is answered, any other runs. -/
theorem checkedBody_keeps {P : Device → Prop} {run : OrderParcel → Device → Device} {o : OrderParcel} {d : Device}
    (refused : P (d.reply o.hdr .badOrder [])) (ran : o.fits = true → P (run o d)) : P (checkedBody run o d) := by
  unfold checkedBody
  split
  · next fits => exact ran fits
  · exact refused

/-- A command whose effect leaves the arbiters nothing to choose. -/
theorem State.run_of_settled {s : State} {f : Device → Device} {e : Device} (pin : s.dev.resetPin = false) (eff : f s.dev = e)
    (settled : e.settled) : s.run f = .next { s with dev := e } := by
  rw [State.run_released s f pin, eff, Device.settle_of_settled e settled]

/-- The arbiters of a device that waits for the same choices as a settled one. -/
theorem Device.settled_congr {d e : Device} (settled : d.settled) (ls : e.ls = d.ls) (replies : e.cp.replies = d.cp.replies)
    (returnQ : e.cp.returnQ = d.cp.returnQ) (upSending : e.cp.upSending = d.cp.upSending) : e.settled := by
  unfold Device.settled
  rw [ls, replies, returnQ, upSending]
  exact settled

/-! ### The queue of commands -/

theorem State.Outcomes.pending {c : Instr} {s t : State} (h : s.Outcomes c t) : t.pending = s.pending := by
  rcases h with rfl | ⟨-, rfl⟩ | ⟨-, -, rfl⟩ <;> rfl

/-- Settles O2. -/
theorem execKeepsQueue : Obligations.ExecKeepsQueue := by
  unfold Obligations.ExecKeepsQueue
  exact fun c _ _ h => (exec_next c h).pending

/-- Settles O1: the queue's case of `step`. -/
theorem stepRunsFrontCommand : Obligations.StepRunsFrontCommand := by
  unfold Obligations.StepRunsFrontCommand
  intro s c rest front
  simp only [step, front]

/-! ### The RESET pin (log 4) -/

/-- Under the pin a command acts only if it is the pin or an input. -/
theorem exec_held (c : Instr) (s : State) (pin : s.dev.resetPin = true) (idle : s.dev.ls.service = none)
    (command : ofInputs c = false) : exec c s = .next s := by
  have held : ∀ f, s.run f = .next s := fun f => s.run_held f pin
  cases c with
  | resetPinAssert => cases command
  | resetPinRelease straps => cases command
  | encoderInputChange channel level => cases command
  | pdiLevelChange level => cases command
  | windowReadComplete =>
    change execWindowReadComplete s = .next s
    rw [execWindowReadComplete, idle]
    exact held _
  | landingWriteComplete =>
    change execLandingWriteComplete s = .next s
    rw [execLandingWriteComplete, idle]
    exact held _
  | rowFetchComplete =>
    change execRowFetchComplete s = .next s
    rw [execRowFetchComplete, idle]
    exact held _
  | _ => exact (exec_eq_run _ s rfl rfl).trans (held _)

/-- Settles O3: the pin's own assertion is gated as well, every other command ends with `State.run`. -/
theorem nothingActsUnderResetPin : Obligations.NothingActsUnderResetPin := by
  unfold Obligations.NothingActsUnderResetPin
  intro c s pin idle notRelease notEncoder notPdi
  cases input : ofInputs c with
  | false => exact exec_held c s pin idle input
  | true =>
    cases c with
    | resetPinAssert => exact s.act_held _ pin
    | resetPinRelease straps => exact absurd rfl (notRelease straps)
    | encoderInputChange channel level => exact absurd rfl (notEncoder channel level)
    | pdiLevelChange level => exact absurd rfl (notPdi level)
    | _ => cases input

end Sys2Proof.Machine
end

section
/-! PROOFS. The resets (R21, R37, R38, R98, R115, R135, R157, R177): what the pin leaves, the memory of an abandoned landing write, and the
state after reset. -/

namespace Sys2Proof.Machine

/-! ### What the pin leaves -/

section AfterPin
variable (now freeCount : Nat) (mem : List Host.Cell) (downOut : List DownTx) (straps : MemSize) (a b pdi : Bool)

theorem Device.afterPin_storesCleared : (Device.afterPin now freeCount mem downOut straps a b pdi).storesCleared :=
  ⟨rfl, rfl, rfl, rfl, rfl, rfl, rfl, rfl, rfl, rfl, rfl, rfl, rfl, rfl, rfl, rfl⟩

theorem Device.afterPin_runCleared : (Device.afterPin now freeCount mem downOut straps a b pdi).runCleared :=
  ⟨rfl, rfl, rfl, rfl, rfl, rfl, rfl, rfl, rfl, rfl, rfl, rfl, rfl, rfl, rfl, rfl, rfl, rfl⟩

theorem HeadPort.reset_eq (sync : LaneSync) : HeadPort.reset sync = clearedPort sync := rfl

theorem Device.afterPin_port (p : PortIx) :
    (Device.afterPin now freeCount mem downOut straps a b pdi).port p = clearedPort .lost :=
  vget_replicate _ _

theorem Device.afterPin_pipe (p : PortIx) (r : RowIx) :
    (Device.afterPin now freeCount mem downOut straps a b pdi).pipe p r = .reset now :=
  rget_replicate _ _ _

end AfterPin

theorem Device.toPinReset_storesCleared (d : Device) (straps : MemSize) : (d.toPinReset straps).storesCleared :=
  Device.afterPin_storesCleared d.now d.freeCount d.mem d.cp.downOut straps d.pu.chA.sampled d.pu.chB.sampled d.pc.pdi

theorem Device.toPinReset_runCleared (d : Device) (straps : MemSize) : (d.toPinReset straps).runCleared :=
  Device.afterPin_runCleared d.now d.freeCount d.mem d.cp.downOut straps d.pu.chA.sampled d.pu.chB.sampled d.pc.pdi

theorem Device.toPinReset_port (d : Device) (straps : MemSize) (p : PortIx) : (d.toPinReset straps).port p = clearedPort .lost :=
  Device.afterPin_port ..

/-- With every stored event word 0 no event stands: ALERT is released (R32). -/
theorem OrderUnit.alert_of_no_event {u : OrderUnit} (dev : u.devEvents = 0) (heads : u.headEvents = .replicate 16 0) :
    u.alert = false := by
  have quiet : u.headAttention = false := by simp [OrderUnit.headAttention, heads]
  simp [OrderUnit.alert, OrderUnit.devEventWord, dev, quiet]

/-! ### The memory of an abandoned landing write (R98) -/

/-- A byte of the slot position is the old one or the written one. -/
theorem readByte_writePartly_inside (use : Nat) (m : List Host.Cell) (a i j : Nat) (bs : List Byte) (inside : j < bs.length) :
    readByte (writePartly use m a i bs) (a + j) = readByte m (a + j) ∨
      readByte (writePartly use m a i bs) (a + j) = bs[j] := by
  induction bs generalizing m a i j with
  | nil => cases inside
  | cons b bs ih =>
    have old : ∀ x, x ≠ a → readByte (if Config.partialByte use i then insertKey a b m else m) x = readByte m x := by
      intro x ne
      split
      · rw [readByte_insertKey, if_neg ne]
      · rfl
    unfold writePartly
    cases j with
    | zero =>
      rw [readByte_writePartly _ _ _ _ _ _ (by omega)]
      split
      · right; simp [readByte_insertKey]
      · left; rfl
    | succ j =>
      have rest := ih (if Config.partialByte use i then insertKey a b m else m) (a + 1) (i + 1) j
        (Nat.lt_of_succ_lt_succ inside)
      rw [show a + 1 + j = a + (j + 1) by omega, old _ (by omega)] at rest
      exact rest

section Abandon
variable (d : Device)

/-- Abandoning the request in service changes the memory and the count of free values alone. -/
theorem Device.abandonTransfer_eq :
    d.abandonTransfer = { d with mem := d.abandonTransfer.mem, freeCount := d.abandonTransfer.freeCount } := by
  unfold Device.abandonTransfer
  split <;> rfl

theorem Device.abandonTransfer_mem_of_landWrite {w : LandWrite} (served : d.ls.service = some (.landWrite w)) :
    d.abandonTransfer.mem = writePartly d.freeCount d.mem w.addr 0 w.bytes := by
  simp [Device.abandonTransfer, served]

theorem Device.abandonTransfer_mem_of_other (other : ∀ w, d.ls.service ≠ some (.landWrite w)) :
    d.abandonTransfer.mem = d.mem := by
  unfold Device.abandonTransfer
  split
  · next w served => exact absurd served (other w)
  all_goals rfl

/-- A byte that no landing write in service covers is kept. -/
theorem Device.readByte_abandonTransfer_outside (a : Nat)
    (outside : ∀ w, d.ls.service = some (.landWrite w) → a < w.addr ∨ w.addr + w.bytes.length ≤ a) :
    readByte d.abandonTransfer.mem a = readByte d.mem a := by
  by_cases landing : ∃ w, d.ls.service = some (.landWrite w)
  · obtain ⟨w, served⟩ := landing
    rw [d.abandonTransfer_mem_of_landWrite served]
    exact readByte_writePartly _ _ _ _ _ _ (outside w served)
  · rw [d.abandonTransfer_mem_of_other fun w served => landing ⟨w, served⟩]

theorem Device.readByte_abandonTransfer_inside {w : LandWrite} (served : d.ls.service = some (.landWrite w)) (i : Nat)
    (inside : i < w.bytes.length) :
    readByte d.abandonTransfer.mem (w.addr + i) = readByte d.mem (w.addr + i) ∨
      readByte d.abandonTransfer.mem (w.addr + i) = w.bytes[i] := by
  rw [d.abandonTransfer_mem_of_landWrite served]
  exact readByte_writePartly_inside _ _ _ _ _ _ inside

theorem Device.abandonTransfer_wf (wf : Memory.wf d.mem) : Memory.wf d.abandonTransfer.mem := by
  by_cases landing : ∃ w, d.ls.service = some (.landWrite w)
  · obtain ⟨w, served⟩ := landing
    rw [d.abandonTransfer_mem_of_landWrite served]
    exact Memory.wf_writePartly _ _ _ _ _ wf
  · rwa [d.abandonTransfer_mem_of_other fun w served => landing ⟨w, served⟩]

end Abandon

/-- Settles O5: both halves are the device `Device.afterPin`, whose memory `Device.abandonTransfer` gives. -/
theorem resetPinClears : Obligations.ResetPinClears := by
  unfold Obligations.ResetPinClears
  refine ⟨?asserted, ?released⟩
  case asserted =>
    intro s pin
    have downOut : s.dev.abandonTransfer.cp.downOut = s.dev.cp.downOut := by rw [Device.abandonTransfer_eq]
    have now : s.dev.abandonTransfer.now = s.dev.now := by rw [Device.abandonTransfer_eq]
    exact ⟨{ s with dev := s.dev.pinAssert }, s.act_released _ pin, rfl, rfl, rfl, rfl, rfl, rfl, rfl, rfl,
      downOut, rfl, now, s.dev.abandonTransfer.toPinReset_storesCleared s.dev.ou.memory,
      s.dev.abandonTransfer.toPinReset_runCleared s.dev.ou.memory, s.dev.abandonTransfer.toPinReset_port s.dev.ou.memory,
      s.dev.readByte_abandonTransfer_outside, fun _ served i inside => s.dev.readByte_abandonTransfer_inside served i inside⟩
  case released =>
    intro s m pin
    refine ⟨{ s with dev := s.dev.toPinReset m }, ?_, rfl, rfl, rfl, rfl, rfl, rfl, rfl, rfl, rfl, rfl, rfl, rfl,
      s.dev.toPinReset_storesCleared m, s.dev.toPinReset_runCleared m, s.dev.toPinReset_port m, rfl, rfl, rfl, rfl⟩
    simp [exec, execResetPinRelease, pin]

/-- Settles O4: what the pin leaves, and every kept property of a device that holds nothing. -/
theorem resetStateCleared : Obligations.ResetStateCleared := by
  unfold Obligations.ResetStateCleared
  have atRest : State.reset.dev.passingAtRest := by
    intro p r _
    rw [show State.reset.dev.pipe p r = .reset 0 from Device.afterPin_pipe _ _ _ _ _ _ _ _ p r]
    exact ⟨rfl, rfl, rfl⟩
  have silent : State.reset.dev.silentInRange := by
    intro p
    rw [show State.reset.dev.port p = clearedPort .lost from Device.afterPin_port _ _ _ _ _ _ _ _ p]
    exact Nat.zero_le _
  have fetches : State.reset.dev.fetchesFit := by
    refine ⟨Nat.zero_le _, ?_, ?_, fun _ _ => Nat.zero_le _, fun running => absurd rfl running⟩
    · intro p loading
      rw [show State.reset.dev.port p = clearedPort .lost from Device.afterPin_port _ _ _ _ _ _ _ _ p] at loading
      cases loading
    · intro _ p r
      rw [show State.reset.dev.pipe p r = .reset 0 from Device.afterPin_pipe _ _ _ _ _ _ _ _ p r]
      rfl
  refine ⟨rfl, rfl, rfl, rfl, rfl, rfl, ?alert, Device.afterPin_storesCleared 0 0 [] [] .m512 false false false,
    Device.afterPin_runCleared 0 0 [] [] .m512 false false false, Device.afterPin_port 0 0 [] [] .m512 false false false, ?maps, ?web, silent,
    ?queues, ?rings, ?intake, ?writes, fetches, atRest, rfl, ?settled⟩
  case alert => simp [Device.alert, OrderUnit.alert_of_no_event (u := State.reset.dev.ou) rfl rfl]
  case maps => decide +kernel
  case web => decide +kernel
  case queues => decide +kernel
  case rings => decide +kernel
  case intake => decide +kernel
  case writes => decide +kernel
  case settled => decide +kernel

/-- Settles O6: only a sync state changes, so the arbiters of a working device have nothing to choose. -/
theorem idleBringsSync : Obligations.IdleBringsSync := by
  unfold Obligations.IdleBringsSync
  rintro s ⟨pin, settled⟩
  exact ⟨State.run_of_settled (f := fun d => d.effect .downLaneSync) pin rfl (Device.settled_congr settled rfl rfl rfl rfl),
    _, State.run_of_settled (f := fun d => d.effect .returnInSync) pin rfl (Device.settled_congr settled rfl rfl rfl rfl), rfl, rfl⟩

end Sys2Proof.Machine
end

section
/-! PROOFS. Rows and ages under everything that a row, a page or an edge sets off: rows that do not print stay at rest (R136, R153), and
the ages stay in canonical form. The companion of `Device.Quiet`, operation by operation. -/

namespace Sys2Proof.Machine

/-- The keep-wet ages list their head columns strictly rising. -/
def Device.agesRise (d : Device) : Prop := ∀ p, rising (d.port p).ages = true

/-- `b` follows from `a` with rows at rest and ages in order, where they were so before. -/
structure Device.Orderly (a b : Device) : Prop where
  ages : a.agesRise → b.agesRise
  rest : a.passingAtRest → b.passingAtRest

theorem Device.Orderly.refl (a : Device) : a.Orderly a := ⟨id, id⟩

theorem Device.Orderly.trans {a b c : Device} (h : a.Orderly b) (k : b.Orderly c) : a.Orderly c :=
  ⟨fun x => k.ages (h.ages x), fun x => k.rest (h.rest x)⟩

theorem Device.Orderly.foldl {β : Type} (f : Device → β → Device) (hf : ∀ d x, Device.Orderly d (f d x)) (l : List β) (d : Device) :
    d.Orderly (l.foldl f d) := by
  induction l generalizing d with
  | nil => exact .refl d
  | cons x l ih => exact (hf d x).trans (ih _)

/-! ### Which rows print -/

theorem Device.printing_iff (d : Device) (p : PortIx) (r : RowIx) :
    d.printing p r = true ↔ d.rowEnabled p r = true ∧ (d.port p).state = .ready := by
  simp [Device.printing]

theorem Device.not_printing_iff (d : Device) (p : PortIx) (r : RowIx) :
    d.printing p r = false ↔ d.rowEnabled p r = false ∨ (d.port p).state ≠ .ready := by
  cases e : d.rowEnabled p r <;> simp [Device.printing, e]

theorem Device.rowEnabled_congr {a b : Device} (tab : b.tab = a.tab) (p : PortIx) (r : RowIx) : b.rowEnabled p r = a.rowEnabled p r := by
  unfold Device.rowEnabled Device.head
  rw [tab]

theorem Device.printing_congr {a b : Device} (tab : b.tab = a.tab) {p : PortIx} (state : (b.port p).state = (a.port p).state)
    (r : RowIx) : b.printing p r = a.printing p r := by
  simp only [Device.printing, Device.rowEnabled_congr tab, state]

theorem Device.port_modPort (d : Device) (p q : PortIx) (f : HeadPort → HeadPort) :
    (d.modPort p f).port q = if q = p then f (d.port q) else d.port q := vget_vmod d.hp p q f

theorem Device.port_modPort_same (d : Device) (p : PortIx) (f : HeadPort → HeadPort) : (d.modPort p f).port p = f (d.port p) := by
  rw [Device.port_modPort, if_pos rfl]

theorem Device.pipe_modPipe (d : Device) (p q : PortIx) (r s : RowIx) (f : Pipeline → Pipeline) :
    (d.modPipe p r f).pipe q s = if q = p ∧ s = r then f (d.pipe q s) else d.pipe q s := rget_rmod d.rf p q r s f

theorem Device.pipe_modPipe_same (d : Device) (p : PortIx) (r : RowIx) (f : Pipeline → Pipeline) :
    (d.modPipe p r f).pipe p r = f (d.pipe p r) := by
  rw [Device.pipe_modPipe, if_pos ⟨rfl, rfl⟩]

/-! ### Single fields -/

/-- Nothing of the rows, the ports and the tables changes. -/
theorem Device.orderly_of_same {a b : Device} (tab : b.tab = a.tab) (rf : b.rf = a.rf) (hp : b.hp = a.hp) : a.Orderly b := by
  have port : ∀ p, b.port p = a.port p := fun p => by simp only [Device.port, hp]
  refine ⟨fun ages p => (port p) ▸ ages p, fun rest p r passing => ?_⟩
  rw [Device.rowEnabled_congr tab, port] at passing
  simpa only [Device.pipe, rf] using rest p r passing

/-- A port whose ages stay in order, and that keeps its state or did not print. -/
theorem Device.orderly_modPort (d : Device) (p : PortIx) (f : HeadPort → HeadPort)
    (ages : rising (d.port p).ages = true → rising (f (d.port p)).ages = true)
    (state : (f (d.port p)).state = (d.port p).state ∨ (d.port p).state ≠ .ready) : d.Orderly (d.modPort p f) := by
  refine ⟨fun rise q => ?_, fun rest q r passing => ?_⟩
  · rw [Device.port_modPort]
    split
    · next eq => subst eq; exact ages (rise q)
    · exact rise q
  · rw [Device.rowEnabled_congr (b := d.modPort p f) (a := d) rfl, Device.port_modPort] at passing
    refine rest q r (passing.imp_right fun stopped => ?_)
    split at stopped
    · next eq =>
      subst eq
      rcases state with same | waiting
      · rwa [same] at stopped
      · exact waiting
    · exact stopped

/-- A port whose state and ages stay. -/
theorem Device.orderly_modPort_same (d : Device) (p : PortIx) (f : HeadPort → HeadPort) (ages : ∀ hp, (f hp).ages = hp.ages)
    (state : ∀ hp, (f hp).state = hp.state) : d.Orderly (d.modPort p f) :=
  d.orderly_modPort p f (fun h => (ages _).symm ▸ h) (.inl (state _))

/-- A pipeline of a printing row, or one that stays at rest. -/
theorem Device.orderly_modPipe (d : Device) (p : PortIx) (r : RowIx) (f : Pipeline → Pipeline)
    (h : d.printing p r = true ∨ ((d.pipe p r).atRest → (f (d.pipe p r)).atRest)) : d.Orderly (d.modPipe p r f) := by
  refine ⟨id, fun rest q s passing => ?_⟩
  have rested : (d.pipe q s).atRest := rest q s passing
  rw [Device.pipe_modPipe]
  split
  · next eq =>
    obtain ⟨rfl, rfl⟩ := eq
    rcases h with prints | keeps
    · rw [(d.not_printing_iff q s).2 passing] at prints
      cases prints
    · exact keeps rested
  · exact rested

theorem Device.orderly_setEvent (d : Device) (e : DevEvent) : d.Orderly (d.setEvent e) := Device.orderly_of_same rfl rfl rfl
theorem Device.orderly_setHeadEvent (d : Device) (p : PortIx) (e : HeadEvent) : d.Orderly (d.setHeadEvent p e) :=
  Device.orderly_of_same rfl rfl rfl
theorem Device.orderly_count (d : Device) (c : DevCounter) (n : Nat) : d.Orderly (d.count c n) := Device.orderly_of_same rfl rfl rfl
theorem Device.orderly_countHead (d : Device) (p : PortIx) (c : HeadCounter) (n : Nat) : d.Orderly (d.countHead p c n) :=
  Device.orderly_of_same rfl rfl rfl
theorem Device.orderly_modRowPos (d : Device) (p : PortIx) (r : RowIx) (f : RowPosition → RowPosition) :
    d.Orderly (d.modRowPos p r f) := Device.orderly_of_same rfl rfl rfl
theorem Device.orderly_pc (d : Device) (pc : PageControl) : d.Orderly { d with pc := pc } := Device.orderly_of_same rfl rfl rfl
theorem Device.orderly_modRing (d : Device) (p : PortIx) (f : Ring → Ring) : d.Orderly (d.modRing p f) :=
  Device.orderly_of_same rfl rfl rfl
theorem Device.orderly_doneNotice (d : Device) (p : PortIx) (r : RowIx) (pl : PageLine) : d.Orderly (d.doneNotice p r pl) :=
  Device.orderly_of_same rfl rfl rfl
theorem Device.orderly_raiseFetch (d : Device) (p : PortIx) (r : RowIx) (pl : PageLine) (g : Ring) (i : Nat) :
    d.Orderly (d.raiseFetch p r pl g i) := Device.orderly_of_same rfl rfl rfl

/-! ### Sparse maps -/

theorem risingFrom_mono {α : Type} {low low' : Option Nat} {m : List (Nat × α)} (h : risingFrom low m = true)
    (below : ∀ k, low.all (· < k) = true → low'.all (· < k) = true) : risingFrom low' m = true := by
  cases m with
  | nil => rfl
  | cons x m =>
    simp only [risingFrom, Bool.and_eq_true] at h ⊢
    exact ⟨below _ h.1, h.2⟩

theorem risingFrom_eraseKey {α : Type} (k : Nat) (low : Option Nat) (m : List (Nat × α)) (h : risingFrom low m = true) :
    risingFrom low (eraseKey k m) = true := by
  induction m generalizing low with
  | nil => rfl
  | cons x m ih =>
    obtain ⟨a, y⟩ := x
    simp only [risingFrom, Bool.and_eq_true] at h
    unfold eraseKey
    split
    · refine risingFrom_mono h.2 fun j above => ?_
      cases low with
      | none => rfl
      | some l =>
        simp only [Option.all_some, decide_eq_true_eq] at h above ⊢
        omega
    · simp only [risingFrom, Bool.and_eq_true]
      exact ⟨h.1, ih _ h.2⟩

/-- Storing a number, 0 by leaving it out, keeps the canonical form. -/
theorem rising_numPut (m : List (Nat × Nat)) (k x : Nat) (h : rising m = true) : rising (numPut m k x) = true := by
  unfold numPut
  split
  · exact risingFrom_eraseKey k none m h
  · exact rising_insertKey k x m h

theorem rising_keepWet (threshold rowCount : Nat) (r : RowIx) (k : Nat) (cs : List Nat) (ages : List (Nat × Nat))
    (h : rising ages = true) : rising (keepWet threshold rowCount r k cs ages).2 = true := by
  induction cs generalizing k ages with
  | nil => exact h
  | cons c cs ih => exact ih _ _ (rising_numPut _ _ _ h)

/-! ### Frames -/

/-- A hand-over changes no more of its port than the frames, the ages and the generators. -/
theorem HeadPort.assemble_eq (hp : HeadPort) (h : HeadDescr) (r : RowIx) (t : Pos) (codes : Option (List Nat)) :
    (hp.assemble h r t codes).2 = { hp with
      ages := (hp.assemble h r t codes).2.ages, prbs := (hp.assemble h r t codes).2.prbs } := by
  unfold HeadPort.assemble
  dsimp only
  split
  · split <;> rfl
  · split <;> rfl
  · rfl
  · rfl
  · rfl

theorem HeadPort.takeFrame_state (hp : HeadPort) (h : HeadDescr) (r : RowIx) (t : Pos) (codes : Option (List Nat)) :
    (hp.takeFrame h r t codes).state = hp.state := by
  change (hp.assemble h r t codes).2.state = hp.state
  rw [HeadPort.assemble_eq]

theorem HeadPort.rising_takeFrame_ages (hp : HeadPort) (h : HeadDescr) (r : RowIx) (t : Pos) (codes : Option (List Nat))
    (rise : rising hp.ages = true) : rising (hp.takeFrame h r t codes).ages = true := by
  have wet : ∀ cs, rising (keepWet h.keepWet h.rowCount r 0 cs hp.ages).2 = true := fun cs => rising_keepWet _ _ _ _ _ _ rise
  unfold HeadPort.takeFrame HeadPort.assemble
  dsimp only
  split
  · split
    · exact rise
    · exact wet _
  · split
    · exact rise
    · exact wet _
  · exact rise
  · exact rise
  · exact rise

/-! ### Ports -/

theorem Device.orderly_raiseToken (d : Device) (p : PortIx) (t : Token) : d.Orderly (d.raiseToken p t) := by
  unfold Device.raiseToken
  split
  · exact d.orderly_modPort_same p _ (fun _ => rfl) fun _ => rfl
  · exact .refl d

theorem Device.orderly_restartTickle (d : Device) (p : PortIx) : d.Orderly (d.restartTickle p) := by
  unfold Device.restartTickle
  split
  · exact d.orderly_modPort_same p _ (fun _ => rfl) fun _ => rfl
  · exact .refl d

theorem Pipeline.leaveReady_atRest (q : Pipeline) : q.leaveReady.atRest := ⟨rfl, rfl, rfl⟩

theorem Device.rowsLeaveReady_pipe (d : Device) (p q : PortIx) (r : RowIx) :
    (d.rowsLeaveReady p).pipe q r = if q = p then (d.pipe q r).leaveReady else d.pipe q r := by
  simp only [Device.rowsLeaveReady, Device.pipe, rget_vmod, vget_vmap]
  rfl

/-- A port changed, its ages in order, whose rows are emptied. -/
theorem Device.orderly_modPort_rowsLeaveReady (d : Device) (p : PortIx) (f : HeadPort → HeadPort) (ages : ∀ hp, (f hp).ages = hp.ages) :
    d.Orderly ((d.modPort p f).rowsLeaveReady p) := by
  refine ⟨fun rise q => ?_, fun rest q r passing => ?_⟩
  · change rising ((d.modPort p f).port q).ages = true
    rw [Device.port_modPort]
    split
    · rw [ages]; exact rise q
    · exact rise q
  · rw [Device.rowsLeaveReady_pipe]
    split
    · exact Pipeline.leaveReady_atRest _
    · next ne =>
      have port : ((d.modPort p f).rowsLeaveReady p).port q = d.port q := (d.port_modPort p q f).trans (if_neg ne)
      rw [port] at passing
      exact rest q r passing

theorem Device.orderly_leaveReady (d : Device) (p : PortIx) (st : PortState) : d.Orderly (d.leaveReady p st) :=
  d.orderly_modPort_rowsLeaveReady p _ fun _ => rfl

theorem Device.orderly_quenchPort (d : Device) (p : PortIx) (st : PortState) : d.Orderly (d.quenchPort p st) := by
  unfold Device.quenchPort
  dsimp only
  split
  · exact d.orderly_modPort_rowsLeaveReady p _ fun _ => rfl
  · next stopped => exact d.orderly_modPort p _ id (.inr stopped)

/-- A port that did not print, changed with its ages kept. -/
theorem Device.orderly_modPort_waiting (d : Device) (p : PortIx) (f : HeadPort → HeadPort) (ages : ∀ hp, (f hp).ages = hp.ages)
    (waiting : (d.port p).state ≠ .ready) : d.Orderly (d.modPort p f) :=
  d.orderly_modPort p f (fun h => (ages _).symm ▸ h) (.inr waiting)

theorem Device.orderly_autoPark (d : Device) (p : PortIx) : d.Orderly (d.autoPark p) := by
  unfold Device.autoPark
  split
  · split
    · exact d.orderly_leaveReady p _
    · next state => exact d.orderly_modPort_waiting p _ (fun _ => rfl) (by simp [state])
    · next state => exact d.orderly_modPort_waiting p _ (fun _ => rfl) (by simp [state])
    · exact .refl d
    · exact .refl d
    · exact .refl d
  · exact .refl d

theorem Device.orderly_goSilent (d : Device) (p : PortIx) : d.Orderly (d.goSilent p) := Device.orderly_of_same rfl rfl rfl

theorem Device.leaveReady_port (d : Device) (p q : PortIx) (st : PortState) :
    (d.leaveReady p st).port q = if q = p then
      { d.port q with
        state := st
        progress := none
        frames := []
        tokens := (d.port q).tokens.filter Token.staysAtLeave ++ (allRows.filter (fun r => d.rowEnabled p r)).map Token.discard
        tickleAt := none }
    else d.port q := d.port_modPort p q _

theorem Device.orderly_startLoad (d : Device) (p : PortIx) : d.Orderly (d.startLoad p) := by
  unfold Device.startLoad
  split
  · next state => exact d.orderly_modPort_waiting p _ (fun _ => rfl) (by simp [state])
  · refine (d.orderly_leaveReady p _).trans (Device.orderly_modPort_waiting _ p _ (fun _ => rfl) ?_)
    simp [Device.leaveReady_port]
  · exact .refl d
  · exact .refl d
  · exact .refl d
  · exact .refl d

/-! ### Rows -/

theorem Device.orderly_resolveFetch (d : Device) (p : PortIx) (r : RowIx) (prints : d.printing p r = true) :
    d.Orderly (d.resolveFetch p r) := by
  unfold Device.resolveFetch
  dsimp only
  split
  · split
    · exact (d.orderly_modPipe p r _ (.inl prints)).trans (Device.orderly_raiseFetch _ _ _ _ _ _)
    · exact d.orderly_modPipe p r _ (.inl prints)
    · exact d.orderly_modPipe p r _ (.inl prints)
  · exact .refl d

theorem Device.orderly_fillStage (d : Device) (p : PortIx) (r : RowIx) : d.Orderly (d.fillStage p r) := by
  unfold Device.fillStage
  split
  · next guard =>
    simp only [Bool.and_eq_true] at guard
    have prints : (d.modPipe p r (fun q => { q with missing := false })).printing p r = true := guard.1.2
    dsimp only
    split
    · exact (d.orderly_modPipe p r _ (.inl guard.1.2)).trans (Device.orderly_resolveFetch _ _ _ prints)
    · exact (d.orderly_modPipe p r _ (.inl guard.1.2)).trans (Device.orderly_modPipe _ _ _ _ (.inl prints))
  · exact .refl d

theorem Device.orderly_handOver (d : Device) (p : PortIx) (r : RowIx) : d.Orderly (d.handOver p r) := by
  unfold Device.handOver
  split
  · next t codes _ _ =>
    split
    · next prints =>
      have taken : d.Orderly (d.modPort p (fun hp => hp.takeFrame (d.head p) r t codes)) :=
        d.orderly_modPort p _ (HeadPort.rising_takeFrame_ages _ _ _ _ _) (.inl (HeadPort.takeFrame_state _ _ _ _ _))
      have state : ((d.modPort p (fun hp => hp.takeFrame (d.head p) r t codes)).port p).state = (d.port p).state := by
        rw [Device.port_modPort_same, HeadPort.takeFrame_state]
      have prints' : (d.modPort p (fun hp => hp.takeFrame (d.head p) r t codes)).printing p r = true :=
        (Device.printing_congr (Device.modPort_tab d p _) state r).trans prints
      exact (taken.trans (Device.orderly_modPipe _ p r _ (.inl prints'))).trans (Device.orderly_fillStage _ p r)
    · exact .refl d
  · exact .refl d

theorem Device.orderly_prepare (d : Device) (p : PortIx) (r : RowIx) : d.Orderly (d.prepare p r) :=
  (d.orderly_fillStage p r).trans (Device.orderly_handOver _ _ _)

theorem Device.orderly_prepareAll (d : Device) : d.Orderly d.prepareAll :=
  Device.Orderly.foldl (fun (d : Device) (pr : PortIx × RowIx) => d.prepare pr.1 pr.2) (fun d x => d.orderly_prepare x.1 x.2) _ d

theorem Device.orderly_fire (d : Device) (p : PortIx) (r : RowIx) : d.Orderly (d.fire p r) :=
  (((d.orderly_raiseToken p _).trans (Device.orderly_modPipe _ _ _ _ (.inr fun rest => ⟨rest.1, rfl, rfl⟩))).trans
    (Device.orderly_countHead _ _ _ _)).trans (Device.orderly_restartTickle _ _)

theorem Device.orderly_reportLost (d : Device) (pl : Option PageLine) (a b : Nat) : d.Orderly (d.reportLost pl a b) := by
  unfold Device.reportLost
  split
  · exact d.orderly_pc _
  · exact .refl d

theorem Device.orderly_skip (d : Device) (p : PortIx) (pl : Option PageLine) : d.Orderly (d.skip p pl) :=
  ((d.orderly_countHead p _ _).trans (Device.orderly_setHeadEvent _ _ _)).trans (Device.orderly_reportLost _ _ _ _)

theorem Device.orderly_starve (d : Device) (p : PortIx) (r : RowIx) (pl : Option PageLine) : d.Orderly (d.starve p r pl) := by
  unfold Device.starve
  have h := ((d.orderly_countHead p .starved 1).trans (Device.orderly_setHeadEvent _ p .starved)).trans
    (Device.orderly_reportLost _ pl 1 0)
  dsimp only
  split
  · exact h.trans ((Device.orderly_raiseToken _ _ _).trans
      (Device.orderly_modPipe _ _ _ _ (.inr fun rest => ⟨rest.1, rfl, rest.2.2⟩)))
  · exact h
  · exact h

theorem Device.orderly_judgeLine (d : Device) (p : PortIx) (r : RowIx) (x : Pos) (pl : Option PageLine) :
    d.Orderly (d.judgeLine p r x pl) := by
  unfold Device.judgeLine
  dsimp only
  split
  · exact d.orderly_skip p pl
  · split
    · next loaded =>
      split
      · exact d.orderly_fire p r
      · exact d.orderly_modPipe p r _ (.inr fun rest => absurd (rest.2.1.symm.trans loaded) (by simp))
    · exact d.orderly_starve p r pl

theorem Device.orderly_noticeAt (d : Device) (p : PortIx) (r : RowIx) (pl : Option PageLine) : d.Orderly (d.noticeAt p r pl) := by
  unfold Device.noticeAt
  split
  · exact d.orderly_doneNotice p r _
  · exact .refl d

theorem Device.orderly_firingEvent (d : Device) (p : PortIx) (r : RowIx) (x : Pos) (pl : Option PageLine) :
    d.Orderly (d.firingEvent p r x pl) := by
  unfold Device.firingEvent
  split
  · have judged : d.Orderly (if (d.head p).testMode.fetches && pl.isNone then d else d.judgeLine p r x pl) := by
      split
      · exact .refl d
      · exact d.orderly_judgeLine p r x pl
    have dropped : ∀ q : Pipeline, q.atRest → Pipeline.atRest { q with stage := q.stage.dropAt x } := fun q rest =>
      ⟨by rw [rest.1]; rfl, rest.2.1, rest.2.2⟩
    exact ((judged.trans (Device.orderly_noticeAt _ p r pl)).trans (Device.orderly_modPipe _ p r _ (.inr (dropped _)))).trans
      (Device.orderly_prepare _ p r)
  · split
    · exact d.orderly_noticeAt p r pl
    · exact .refl d

theorem Device.orderly_releaseHold (d : Device) (p : PortIx) (r : RowIx) : d.Orderly (d.releaseHold p r) :=
  (d.orderly_fire p r).trans (Device.orderly_handOver _ _ _)

theorem Device.orderly_rowSlotLanded (d : Device) (p : PortIx) (r : RowIx) (done : PageLine) :
    d.Orderly (d.rowSlotLanded p r done) := by
  unfold Device.rowSlotLanded
  split
  · next prints _ _ =>
    split
    · split
      · exact (d.orderly_modPipe p r _ (.inl prints)).trans (Device.orderly_raiseFetch _ _ _ _ _ _)
      · exact .refl d
    · split
      · exact d.orderly_modPipe p r _ (.inl prints)
      · exact .refl d
  · exact .refl d

theorem Device.orderly_slotLanded (d : Device) (p : PortIx) (done : PageLine) : d.Orderly (d.slotLanded p done) :=
  Device.Orderly.foldl _ (fun d r => d.orderly_rowSlotLanded p r done) _ d

theorem Device.orderly_takeFetched (d : Device) (f : Fetch) (codes : List Nat) : d.Orderly (d.takeFetched f codes) := by
  unfold Device.takeFetched
  split
  · next t pl fetching =>
    have busy : ∀ {P : Prop}, (d.pipe f.port f.row).atRest → P := fun rest => absurd (rest.1.symm.trans fetching) (by simp)
    split
    · split
      · exact (d.orderly_modPipe _ _ _ (.inr busy)).trans (Device.orderly_handOver _ _ _)
      · exact (d.orderly_modPipe _ _ _ (.inr busy)).trans (Device.orderly_prepare _ _ _)
    · exact .refl d
  · exact .refl d

theorem Device.orderly_frameDone (d : Device) (p : PortIx) (f : Frame) : d.Orderly (d.frameDone p f) := by
  unfold Device.frameDone
  split
  · split
    · exact d.orderly_raiseToken p _
    · exact .refl d
  · split
    · next y sending =>
      split
      · exact d.orderly_modPipe _ _ _ (.inr fun rest => absurd (rest.2.1.symm.trans sending) (by simp))
      · exact ((d.orderly_raiseToken p _).trans
          (Device.orderly_modPipe _ _ _ _ (.inr fun rest => ⟨rest.1, rfl, rest.2.2⟩))).trans (Device.orderly_handOver _ _ _)
    · exact .refl d
    · exact .refl d

theorem Device.orderly_rowModeChanged (d : Device) (p : PortIx) (r : RowIx) : d.Orderly (d.rowModeChanged p r) := by
  unfold Device.rowModeChanged
  split
  · exact (d.orderly_modPipe p r _ (.inr fun rest => ⟨rfl, rest.2⟩)).trans (Device.orderly_prepare _ p r)
  · exact .refl d

theorem Pipeline.endJob_atRest (keepHeld : Bool) (q : Pipeline) (rest : q.atRest) : (q.endJob keepHeld).atRest := by
  unfold Pipeline.endJob
  split
  · exact ⟨rfl, rest.2⟩
  · exact ⟨rfl, rfl, rfl⟩

theorem Device.orderly_rowEndJob (k : Bool) (d : Device) (p : PortIx) (r : RowIx) : d.Orderly (d.rowEndJob k p r) := by
  unfold Device.rowEndJob
  have ended : ∀ e : Device, e.Orderly (e.modPipe p r (Pipeline.endJob k)) := fun e =>
    e.orderly_modPipe p r _ (.inr (Pipeline.endJob_atRest k _))
  dsimp only
  split
  · split
    · exact ended d
    · exact (d.orderly_raiseToken p _).trans (ended _)
  · exact ended d
  · exact ended d

/-- Frames outlive their job, and every fetch's data will be dropped. -/
theorem Device.orderly_outlive (d : Device) (ls : LineStore) : d.Orderly { d with hp := vmap HeadPort.outliveFrames d.hp, ls := ls } := by
  have port : ∀ p, Device.port { d with hp := vmap HeadPort.outliveFrames d.hp, ls := ls } p = (d.port p).outliveFrames :=
    fun p => vget_vmap _ _ _
  refine ⟨fun rise p => ?_, fun rest p r passing => rest p r ?_⟩
  · rw [port]; exact rise p
  · rw [port] at passing; exact passing

theorem Device.orderly_endPipelines (d : Device) (k : Bool) : d.Orderly (d.endPipelines k) := by
  unfold Device.endPipelines
  have h := Device.Orderly.foldl (fun d (pr : PortIx × RowIx) => d.rowEndJob k pr.1 pr.2)
    (fun d x => d.orderly_rowEndJob k x.1 x.2) allPortRows d
  exact h.trans (Device.orderly_outlive _ _)

/-! ### Pages -/

theorem Device.orderly_calmRows (d : Device) : d.Orderly d.calmRows := Device.orderly_of_same rfl rfl rfl

theorem Device.orderly_endStopping (d : Device) : d.Orderly d.endStopping :=
  ((d.orderly_calmRows.trans (Device.orderly_endPipelines _ true)).trans (Device.orderly_setEvent _ _)).trans (Device.orderly_pc _ _)

theorem Device.orderly_advanceAnchor (d : Device) (k : Trigger) : d.Orderly (d.advanceAnchor k) := by
  cases k with
  | pitch next => exact d.orderly_pc _
  | pdi => exact .refl d
  | go => exact .refl d

theorem Device.orderly_triggerWithoutPage (d : Device) (k : Trigger) : d.Orderly (d.triggerWithoutPage k) := by
  cases k with
  | pitch next =>
    exact ((d.orderly_setEvent .missedPitch).trans (Device.orderly_count _ .missedPitches 1)).trans
      (Device.orderly_advanceAnchor _ (.pitch next))
  | pdi => exact (d.orderly_setEvent _).trans (Device.orderly_count _ _ _)
  | go => exact (d.orderly_setEvent _).trans (Device.orderly_count _ _ _)

theorem Device.orderly_bindPage (d : Device) (q : PageRec) (b : Pos) : d.Orderly (d.bindPage q b) :=
  (d.orderly_pc _).trans (Device.orderly_prepareAll _)

theorem Device.orderly_trigger (d : Device) (k : Trigger) : d.Orderly (d.trigger k).1 := by
  unfold Device.trigger
  split
  · exact d.orderly_triggerWithoutPage k
  · next q _ =>
    dsimp only
    split
    · exact ((d.orderly_setEvent _).trans (Device.orderly_count _ _ _)).trans (Device.orderly_advanceAnchor _ _)
    · simpa only using d.orderly_bindPage q (d.pu.count + BitVec.ofNat 32 d.tab.job.offset)

theorem Device.orderly_globalLineEvent (d : Device) : d.Orderly d.globalLineEvent := by
  unfold Device.globalLineEvent
  split
  · split
    · exact d.orderly_trigger _
    · exact .refl d
  · exact .refl d

theorem Device.orderly_finishPages (d : Device) : d.Orderly d.finishPages := by
  unfold Device.finishPages
  dsimp only
  split
  · exact .refl d
  · have finished : ∀ (pc : PageControl) (n : Nat), d.Orderly ((({ d with pc := pc }).setEvent .pageDone).count .pagesDone n) :=
      fun pc n => ((d.orderly_pc pc).trans (Device.orderly_setEvent _ _)).trans (Device.orderly_count _ _ _)
    split
    · exact (finished _ _).trans (Device.orderly_endStopping _)
    · exact finished _ _

theorem Device.orderly_clearLimit (d : Device) : d.Orderly d.clearLimit := by
  unfold Device.clearLimit
  split
  · exact d.orderly_pc _
  · exact .refl d

theorem Device.orderly_pageEvent (d : Device) (x : Pos) : d.Orderly (d.pageEvent x) :=
  ((d.orderly_pc _).trans (Device.orderly_finishPages _)).trans (Device.orderly_clearLimit _)

/-! ### Row line events -/

theorem Device.orderly_rowLineEvent (d : Device) (p : PortIx) (r : RowIx) (x : Pos) : d.Orderly (d.rowLineEvent p r x) :=
  ((d.orderly_modRowPos p r _).trans (Device.orderly_firingEvent _ _ _ _ _)).trans (Device.orderly_pageEvent _ _)

theorem Device.orderly_cross (d : Device) (p : PortIx) (r : RowIx) (x : Pos) : d.Orderly (d.cross p r x) := by
  unfold Device.cross
  split
  · exact .refl d
  · split
    · exact d.orderly_modRowPos p r _
    · exact (d.orderly_modRowPos p r _).trans (Device.orderly_rowLineEvent _ _ _ _)

theorem Device.orderly_timerExpiry (d : Device) (p : PortIx) (r : RowIx) : d.Orderly (d.timerExpiry p r) := by
  unfold Device.timerExpiry
  split
  · split
    · exact (d.orderly_modRowPos p r _).trans (Device.orderly_rowLineEvent _ _ _ _)
    · exact .refl d
  · exact .refl d

theorem Device.orderly_armRow (d : Device) (p : PortIx) (r : RowIx) : d.Orderly (d.armRow p r) := by
  unfold Device.armRow
  split
  · exact (d.orderly_modRowPos p r _).trans (Device.orderly_timerExpiry _ p r)
  · exact .refl d

theorem Device.orderly_armTimers (d : Device) : d.Orderly d.armTimers :=
  Device.Orderly.foldl (fun (e : Device) (pr : PortIx × RowIx) => e.armRow pr.1 pr.2) (fun e x => e.orderly_armRow x.1 x.2) _ d

/-- Sorting tokens changes nothing but the order of a port's tokens. -/
theorem Device.orderly_inRowOrder (a d : Device) : d.Orderly (a.inRowOrder d) := by
  refine ⟨fun rise p => ?_, fun rest p r passing => rest p r ?_⟩
  · rw [Device.inRowOrder_port]; exact rise p
  · rw [Device.inRowOrder_port] at passing; exact passing

end Sys2Proof.Machine
end

section
/-! PROOFS. What every step keeps: the canonical maps, the registers' ranges and the rows at rest, command by command. -/

namespace Sys2Proof.Machine

/-- Chain ID, web and silent counters in their ranges. -/
abbrev Device.inRange (d : Device) : Prop := d.chainIdLegal ∧ d.webInRange ∧ d.silentInRange

/-- `b` follows from `a` with maps, registers and resting rows in order, where they were so before. -/
structure Device.Lawful (a b : Device) : Prop where
  maps : a.mapsRise → b.mapsRise
  range : a.inRange → b.inRange
  rest : a.passingAtRest → b.passingAtRest

theorem Device.Lawful.refl (a : Device) : a.Lawful a := ⟨id, id, id⟩

theorem Device.Lawful.trans {a b c : Device} (h : a.Lawful b) (k : b.Lawful c) : a.Lawful c :=
  ⟨fun x => k.maps (h.maps x), fun x => k.range (h.range x), fun x => k.rest (h.rest x)⟩

/-- The last operation first: its argument then says what came before. -/
theorem Device.Lawful.after {a b c : Device} (k : b.Lawful c) (h : a.Lawful b) : a.Lawful c := h.trans k

theorem Device.Lawful.foldl {β : Type} (f : Device → β → Device) (hf : ∀ d x, Device.Lawful d (f d x)) (l : List β) (d : Device) :
    d.Lawful (l.foldl f d) := by
  induction l generalizing d with
  | nil => exact .refl d
  | cons x l ih => exact (hf d x).trans (ih _)

/-! ### Quiet and orderly operations, single blocks -/

theorem Device.mapsRise_of {a b : Device} (mem : b.mem = a.mem) (tab : b.tab = a.tab) (ages : a.agesRise → b.agesRise) :
    a.mapsRise → b.mapsRise := by
  rintro ⟨wf, dither, ports⟩
  rw [Device.mapsRise, mem, tab]
  exact ⟨wf, dither, fun p => ⟨(ports p).1, ages (fun q => (ports q).2) p⟩⟩

theorem Device.inRange_of {a b : Device} (chainId : b.cp.chainId = a.cp.chainId) (phase : b.pu.phase = a.pu.phase)
    (debt : b.pu.debt = a.pu.debt) (tab : b.tab = a.tab) (silent : ∀ p, (b.port p).silent = (a.port p).silent) :
    a.inRange → b.inRange := by
  unfold Device.inRange Device.chainIdLegal Device.webInRange Device.silentInRange
  simp only [chainId, phase, debt, tab, silent, imp_self]

/-- An operation that is quiet and orderly is lawful. -/
theorem Device.lawful_of_quiet {a b : Device} (quiet : a.Quiet b) (orderly : a.Orderly b) : a.Lawful b :=
  ⟨Device.mapsRise_of quiet.mem quiet.tab orderly.ages,
    Device.inRange_of (congrArg ChainPort.chainId quiet.cp) quiet.phase quiet.debt quiet.tab quiet.silent, orderly.rest⟩

/-- Nothing of the memory, the tables, the rows, the ports, the web and the chain ID changes. -/
theorem Device.lawful_of_same {a b : Device} (mem : b.mem = a.mem) (tab : b.tab = a.tab) (rf : b.rf = a.rf) (hp : b.hp = a.hp)
    (pu : b.pu = a.pu) (chainId : b.cp.chainId = a.cp.chainId) : a.Lawful b := by
  have orderly : a.Orderly b := Device.orderly_of_same tab rf hp
  have port : ∀ p, b.port p = a.port p := fun p => by simp only [Device.port, hp]
  exact ⟨Device.mapsRise_of mem tab orderly.ages,
    Device.inRange_of chainId (by rw [pu]) (by rw [pu]) tab (fun p => by rw [port]), orderly.rest⟩

/-- Buffers, flags, orders, landing, Line Store and pages change alone. -/
theorem Device.lawful_blocks (d : Device) (ib : Intake) (ou : OrderUnit) (le : Option Landing) (ls : LineStore) (pc : PageControl) :
    d.Lawful { d with ib := ib, ou := ou, le := le, ls := ls, pc := pc } := Device.lawful_of_same rfl rfl rfl rfl rfl rfl

/-- A port whose ages and silent counter stay in order, and that keeps its state or did not print. -/
theorem Device.lawful_modPort (d : Device) (p : PortIx) (f : HeadPort → HeadPort)
    (ages : rising (d.port p).ages = true → rising (f (d.port p)).ages = true)
    (silent : (d.port p).silent ≤ 128 → (f (d.port p)).silent ≤ 128)
    (state : (f (d.port p)).state = (d.port p).state ∨ (d.port p).state ≠ .ready) : d.Lawful (d.modPort p f) := by
  have orderly := d.orderly_modPort p f ages state
  refine ⟨Device.mapsRise_of rfl rfl orderly.ages, fun ⟨chainId, web, low⟩ => ⟨chainId, web, fun q => ?_⟩, orderly.rest⟩
  rw [Device.port_modPort]
  split
  · next eq => subst eq; exact silent (low q)
  · exact low q

/-- The web's registers change within their ranges. -/
theorem Device.lawful_pu (d : Device) (pu : Position) (phase : d.inRange → pu.phase ≤ 65535) (debt : d.inRange → pu.debt ≤ 1048576) :
    d.Lawful { d with pu := pu } :=
  ⟨id, fun range => ⟨range.1, ⟨phase range, debt range, range.2.1.2.2⟩, range.2.2⟩, id⟩

theorem Device.lawful_settle (d : Device) : d.Lawful d.settle :=
  Device.lawful_of_same d.settle_mem d.settle_tab d.settle_rf d.settle_hp d.settle_pu d.settle_chainId

/-! ### The Chain Port -/

theorem Device.lawful_setEvent (d : Device) (e : DevEvent) : d.Lawful (d.setEvent e) := Device.lawful_of_same rfl rfl rfl rfl rfl rfl
theorem Device.lawful_count (d : Device) (c : DevCounter) (n : Nat) : d.Lawful (d.count c n) :=
  Device.lawful_of_same rfl rfl rfl rfl rfl rfl
theorem Device.lawful_countHead (d : Device) (p : PortIx) (c : HeadCounter) (n : Nat) : d.Lawful (d.countHead p c n) :=
  Device.lawful_of_same rfl rfl rfl rfl rfl rfl
theorem Device.lawful_setHeadEvent (d : Device) (p : PortIx) (e : HeadEvent) : d.Lawful (d.setHeadEvent p e) :=
  Device.lawful_of_same rfl rfl rfl rfl rfl rfl
theorem Device.lawful_emit (d : Device) (tx : List DownTx) : d.Lawful (d.emit tx) := Device.lawful_of_same rfl rfl rfl rfl rfl rfl
theorem Device.lawful_rxIdle (d : Device) : d.Lawful d.rxIdle := Device.lawful_of_same rfl rfl rfl rfl rfl rfl
theorem Device.lawful_dropFilling (d : Device) : d.Lawful d.dropFilling := Device.lawful_of_same rfl rfl rfl rfl rfl rfl
theorem Device.lawful_dropArriving (d : Device) : d.Lawful d.dropArriving := Device.lawful_of_same rfl rfl rfl rfl rfl rfl
theorem Device.lawful_pushReply (d : Device) (h : OrderHeader) (st : Status) (body : List Word) (x : Bool) :
    d.Lawful (d.pushReply h st body x) := Device.lawful_of_same rfl rfl rfl rfl rfl rfl
theorem Device.lawful_reply (d : Device) (h : OrderHeader) (st : Status) (body : List Word) : d.Lawful (d.reply h st body) :=
  d.lawful_pushReply h st body false
theorem Device.lawful_finishExec (d : Device) (h : OrderHeader) (st : Status) (body : List Word) : d.Lawful (d.finishExec h st body) :=
  Device.lawful_of_same rfl rfl rfl rfl rfl rfl

/-- The Chain Port changes but for the chain ID. -/
theorem Device.lawful_cp (d : Device) (cp : ChainPort) (chainId : cp.chainId = d.cp.chainId) : d.Lawful { d with cp := cp } :=
  Device.lawful_of_same rfl rfl rfl rfl rfl chainId

theorem Device.lawful_ite {a b c : Device} {P : Prop} [Decidable P] (h : a.Lawful b) (k : a.Lawful c) : a.Lawful (if P then b else c) := by
  split
  · exact h
  · exact k

theorem Device.lawful_onDown (d : Device) (f : Device → Device) (h : ∀ d : Device, d.Lawful (f d)) : d.Lawful (d.onDown f) :=
  Device.lawful_ite (h d) (.refl d)

theorem Device.lawful_onReturn (d : Device) (f : Device → Device) (h : ∀ d : Device, d.Lawful (f d)) : d.Lawful (d.onReturn f) :=
  Device.lawful_ite (h d) (.refl d)

theorem Device.lawful_abortOpen (d : Device) (bs : List Byte) : d.Lawful (d.abortOpen bs) := by
  unfold Device.abortOpen
  split
  · exact .refl d
  · exact d.lawful_rxIdle
  · have closed := ((d.lawful_emit (bodyTx bs ++ [.abortEnd])).trans (Device.lawful_dropFilling _)).trans (Device.lawful_rxIdle _)
    exact Device.lawful_ite closed (closed.trans (Device.lawful_count _ _ _))
  · next h queued repeated _ =>
    have closed := Device.lawful_ite (P := repeated = true) (d.lawful_emit (bodyTx bs ++ [.abortEnd])) (.refl d)
    exact ((closed.trans (Device.lawful_dropArriving _)).trans (Device.lawful_rxIdle _)).trans (Device.lawful_count _ _ _)
  · exact d.lawful_rxIdle.trans (Device.lawful_count _ _ _)

theorem Device.lawful_endPart (d : Device) (part : DownPart) : d.Lawful (d.endPart part) := by
  cases part with
  | between => exact d.lawful_abortOpen _
  | headerless => exact (d.lawful_abortOpen _).trans (Device.lawful_count _ _ _)
  | afterHeader bs => exact d.lawful_abortOpen _

theorem Device.lawful_downLost (d : Device) (part : DownPart) : d.Lawful (d.downLost part) :=
  (((d.lawful_endPart part).trans (Device.lawful_setEvent _ .downLinkLost)).trans (Device.lawful_count _ .downLinkLosses 1)).trans
    (Device.lawful_cp _ _ rfl)

theorem Device.lawful_badKind (d : Device) (kind : Byte) : d.Lawful (if (Instr.badKindParcel kind).wellFormed then
    { (d.abortOpen []).count .downBadParcels 1 with cp := { ((d.abortOpen []).count .downBadParcels 1).cp with rx := .refused } }
      else d) :=
  Device.lawful_ite (((d.lawful_abortOpen []).trans (Device.lawful_count _ .downBadParcels 1)).trans (Device.lawful_cp _ _ rfl)) (.refl d)

theorem Device.lawful_admitCopy (d : Device) (h : LineHeader) : d.Lawful (d.admitCopy h) :=
  Device.lawful_ite
    (Device.lawful_ite (Device.lawful_of_same rfl rfl rfl rfl rfl rfl) ((d.lawful_setEvent _).trans (Device.lawful_count _ _ _)))
    (.refl d)

theorem Device.lawful_lineHeader (d : Device) (h : LineHeader) : d.Lawful (d.lineHeader h) := by
  have opened := (d.lawful_abortOpen []).trans (Device.lawful_emit _ [.start (lineHeaderBytes h)])
  exact Device.lawful_ite ((opened.trans (Device.lawful_admitCopy _ h)).trans (Device.lawful_cp _ _ rfl))
    ((opened.trans (Device.lawful_count _ _ _)).trans (Device.lawful_cp _ _ rfl))

theorem Device.lawful_completeCopy (d : Device) (body : List Byte) : d.Lawful (d.completeCopy body) := by
  unfold Device.completeCopy
  split
  · exact Device.lawful_of_same rfl rfl rfl rfl rfl rfl
  · exact .refl d

theorem Device.lawful_countPartial (d : Device) (h : LineHeader) : d.Lawful (d.countPartial h) :=
  Device.lawful_ite (Device.Lawful.foldl _ (fun e p => Device.lawful_ite (e.lawful_countHead p .partialSpan 1) (.refl e)) _ d) (.refl d)

theorem Device.lawful_lineEnd (d : Device) (bs : List Byte) : d.Lawful (d.lineEnd bs) := by
  unfold Device.lineEnd
  split
  · next h counted _ =>
    have ended := (d.lawful_emit (bodyTx bs ++ [.endMarker])).trans (Device.lawful_rxIdle _)
    refine Device.lawful_ite ended ?_
    split
    · exact (ended.trans (Device.lawful_completeCopy _ _)).trans (Device.lawful_countPartial _ _)
    · exact (ended.trans (Device.lawful_dropFilling _)).trans (Device.lawful_count _ _ _)
    · exact (ended.trans (Device.lawful_dropFilling _)).trans (Device.lawful_count _ _ _)
  all_goals exact .refl d

theorem Device.lawful_chainReply (d : Device) (h : OrderHeader) (st : Status) (body : List Word) (full : DevCounter) :
    d.Lawful (d.chainReply h st body full) := Device.lawful_ite (d.lawful_pushReply _ _ _ _) (d.lawful_count _ _)

theorem Device.lawful_queueOrder (d : Device) (h : OrderHeader) (repeated : Bool) : d.Lawful (d.queueOrder h repeated) := by
  have busy : d.Lawful (if 0 < d.freePlaces then (d.pushReply h .busy [] false).count .busyReplies 1 else d.count .ordersDropped 1) :=
    Device.lawful_ite ((d.lawful_pushReply _ _ _ _).trans (Device.lawful_count _ _ _)) (d.lawful_count _ _)
  exact Device.lawful_ite (d.lawful_cp _ rfl) (busy.trans (Device.lawful_cp _ _ rfl))

theorem Device.lawful_orderHeader (d : Device) (h : OrderHeader) : d.Lawful (d.orderHeader h) := by
  have opened := d.lawful_abortOpen []
  have emitted := opened.trans (Device.lawful_emit _ [.start (orderHeaderBytes h)])
  exact Device.lawful_ite
    (Device.lawful_ite (emitted.trans (Device.lawful_queueOrder _ h true))
      (Device.lawful_ite (opened.trans (Device.lawful_queueOrder _ h false)) (emitted.trans (Device.lawful_cp _ _ rfl))))
    ((opened.trans (Device.lawful_count _ _ _)).trans (Device.lawful_cp _ _ rfl))

theorem Device.lawful_tailAnswer (d : Device) (h : OrderHeader) : d.Lawful (d.tailAnswer h) :=
  Device.lawful_ite (d.lawful_chainReply _ _ _ _) (.refl d)

theorem Device.lawful_orderEnd (d : Device) (bs : List Byte) : d.Lawful (d.orderEnd bs) := by
  unfold Device.orderEnd
  split
  · next h queued repeated _ =>
    have ended := (Device.lawful_ite (P := repeated = true) (d.lawful_emit (bodyTx bs ++ [.endMarker])) (.refl d)).trans
      (Device.lawful_rxIdle _)
    dsimp only
    split
    · have stored : ∀ e : Device, e.Lawful (if queued then { e with cp := { e.cp with
          orderQ := e.cp.orderQ.map (OrderPlace.completeWith (takeWords h.words.toNat bs)) } } else e) :=
        fun e => Device.lawful_ite (e.lawful_cp _ rfl) (.refl e)
      exact (ended.trans (stored _)).trans (Device.lawful_tailAnswer _ _)
    · exact (ended.trans (Device.lawful_dropArriving _)).trans (Device.lawful_count _ _ _)
    · exact (ended.trans (Device.lawful_dropArriving _)).trans (Device.lawful_count _ _ _)
  all_goals exact .refl d

theorem numberedId_le (v : Byte) : (numberedId v).toNat ≤ 15 := by
  unfold numberedId
  split
  · next range => exact range.2
  · exact Nat.zero_le _

/-- A chain ID in its range is taken. -/
theorem Device.lawful_chainId (d : Device) (id : Byte) (low : id.toNat ≤ 15) : d.Lawful { d with cp := { d.cp with chainId := id } } :=
  ⟨fun h => h, fun range => ⟨low, range.2⟩, fun h => h⟩

theorem Device.lawful_acceptNumber (d : Device) (v : Byte) : d.Lawful (d.acceptNumber v) := by
  have taken := Device.lawful_ite (P := d.jobActive = true) (d.lawful_setEvent .numberIgnored)
    (d.lawful_chainId (numberedId v) (numberedId_le v))
  have sent := taken.trans (Device.lawful_emit _ (numberTx (nextNumber v)))
  exact Device.lawful_ite (sent.trans (Device.lawful_chainReply _ _ _ _ _)) sent

theorem Device.lawful_openNumber (d : Device) (v : Byte) : d.Lawful (d.openNumber v) :=
  (d.lawful_abortOpen []).trans (Device.lawful_cp _ _ rfl)

theorem Device.lawful_closeNumber (d : Device) (bs : List Byte) : d.Lawful (d.closeNumber bs) := by
  unfold Device.closeNumber
  split
  · split
    · exact Device.lawful_ite (d.lawful_rxIdle.trans (Device.lawful_acceptNumber _ _)) d.lawful_rxIdle
    · exact d.lawful_rxIdle.trans (Device.lawful_count _ _ _)
    · exact d.lawful_rxIdle.trans (Device.lawful_count _ _ _)
  all_goals exact .refl d

theorem Device.lawful_number (d : Device) (v : Byte) (part : NumberPart) : d.Lawful (d.number v part) := by
  cases part with
  | whole bs => exact (d.lawful_openNumber v).trans (Device.lawful_closeNumber _ bs)
  | opened => exact d.lawful_openNumber v
  | closed bs => exact d.lawful_closeNumber bs

theorem Device.lawful_discardReturn (d : Device) : d.Lawful d.discardReturn := by
  unfold Device.discardReturn
  dsimp only
  split
  · exact (d.lawful_count _ _).trans (Device.lawful_cp _ _ rfl)
  · exact d.lawful_cp _ rfl
  · exact d.lawful_cp _ rfl

theorem Device.lawful_returnLost (d : Device) : d.Lawful d.returnLost := d.lawful_discardReturn.trans (Device.lawful_cp _ _ rfl)

theorem Device.lawful_returnStart (d : Device) : d.Lawful d.returnStart :=
  Device.lawful_ite (d.lawful_discardReturn.trans (Device.lawful_cp _ _ rfl))
    (((d.lawful_discardReturn.trans (Device.lawful_setEvent _ .returnOverflow)).trans (Device.lawful_count _ .returnOverflows 1)).trans
      (Device.lawful_cp _ _ rfl))

theorem Device.lawful_returnEnd (d : Device) (bs : List Byte) (closing : Closing) : d.Lawful (d.returnEnd bs closing) := by
  unfold Device.returnEnd
  split
  · exact Device.lawful_ite (d.lawful_cp _ rfl) d.lawful_discardReturn
  · exact .refl d
  · exact d.lawful_discardReturn

/-! ### Resets -/

/-- A device whose rows are emptied, whose ports are reset and whose other blocks stand at their reset values, but for the chain ID. -/
theorem Device.lawful_of_reset {a b : Device} (mem : Memory.wf a.mem → Memory.wf b.mem) (tab : b.tab = .default)
    (pipe : ∀ p r, b.pipe p r = .reset a.now) (port : ∀ p, ∃ sync, b.port p = clearedPort sync) (phase : b.pu.phase = 0)
    (debt : b.pu.debt = 0) (chainId : a.chainIdLegal → b.chainIdLegal) : a.Lawful b := by
  refine ⟨fun ⟨wf, _, _⟩ => ⟨mem wf, fun k => ?_, fun p => ⟨?_, ?_⟩⟩, fun ⟨legal, _, _⟩ => ⟨chainId legal, ⟨?_, ?_, ?_, fun p r => ?_⟩, fun p => ?_⟩,
    fun _ p r _ => ?_⟩
  · rw [tab, Tables.default, vget_replicate]; rfl
  · rw [tab, Tables.default, vget_replicate]; rfl
  · obtain ⟨sync, eq⟩ := port p
    rw [eq]; rfl
  · rw [phase]; exact Nat.zero_le _
  · rw [debt]; exact Nat.zero_le _
  · rw [tab]; exact Nat.le_refl _
  · rw [tab, Tables.default, rget_replicate]; exact Nat.zero_le _
  · obtain ⟨sync, eq⟩ := port p
    rw [eq]; exact Nat.zero_le _
  · rw [pipe]; exact ⟨rfl, rfl, rfl⟩

theorem Device.toPinReset_pipe (d : Device) (straps : MemSize) (p : PortIx) (r : RowIx) :
    (d.toPinReset straps).pipe p r = .reset d.now := rget_replicate _ _ _

theorem Device.lawful_toPinReset (d : Device) (straps : MemSize) : d.Lawful (d.toPinReset straps) :=
  Device.lawful_of_reset id rfl (d.toPinReset_pipe straps) (fun p => ⟨_, d.toPinReset_port straps p⟩) rfl rfl fun _ => Nat.zero_le _

theorem Device.abandonTransfer_now (d : Device) : d.abandonTransfer.now = d.now := by rw [Device.abandonTransfer_eq]

theorem Device.lawful_pinAssert (d : Device) : d.Lawful d.pinAssert :=
  Device.lawful_of_reset d.abandonTransfer_wf rfl
    (fun p r => (d.abandonTransfer.toPinReset_pipe d.ou.memory p r).trans (congrArg Pipeline.reset d.abandonTransfer_now))
    (fun p => ⟨_, d.abandonTransfer.toPinReset_port d.ou.memory p⟩) rfl rfl fun _ => Nat.zero_le _

theorem Device.softReset_port (d : Device) (p : PortIx) : d.softReset.port p = clearedPort (d.port p).sync :=
  vget_vmap d.hp p fun hp => HeadPort.reset hp.sync

theorem Device.lawful_softReset (d : Device) : d.Lawful d.softReset :=
  Device.lawful_of_reset d.abandonTransfer_wf rfl
    (fun p r => (d.abandonTransfer.toPinReset_pipe d.ou.memory p r).trans (congrArg Pipeline.reset d.abandonTransfer_now))
    (fun p => ⟨_, d.softReset_port p⟩) rfl rfl id

theorem Device.lawful_upSent (d : Device) : d.Lawful d.upSent := by
  unfold Device.upSent
  split
  · exact Device.lawful_ite d.lawful_softReset (d.lawful_cp _ rfl)
  · exact d.lawful_cp _ rfl
  · exact .refl d

end Sys2Proof.Machine
end

section
/-! PROOFS. What every command but a WRITE keeps: orders, landing, web, pages and ports. -/

namespace Sys2Proof.Machine

/-! ### Orders -/

/-- An order that is lawful is so when it is taken from the queue. -/
theorem Device.lawful_takeOrder (d : Device) (kind : OrderParcel → Bool) (run : OrderParcel → Device → Device)
    (ran : ∀ o (e : Device), e.Lawful (run o e)) : d.Lawful (d.takeOrder kind run) :=
  Device.takeOrder_keeps (P := d.Lawful) (.refl d) fun o _ _ => .after (ran o _) (d.lawful_cp _ rfl)

theorem Device.lawful_checkedBody (run : OrderParcel → Device → Device) (ran : ∀ o (e : Device), e.Lawful (run o e)) (o : OrderParcel)
    (d : Device) : d.Lawful (checkedBody run o d) :=
  checkedBody_keeps (P := d.Lawful) (d.lawful_reply _ _ _) fun _ => ran o d

theorem lawful_readOrder (o : OrderParcel) (d : Device) : d.Lawful (readOrder o d) :=
  Device.lawful_ite (d.lawful_reply _ _ _) (Device.lawful_ite (d.lawful_reply _ _ _) (d.lawful_reply _ _ _))

theorem lawful_readWindowOrder (o : OrderParcel) (d : Device) : d.Lawful (readWindowOrder o d) :=
  Device.lawful_ite (d.lawful_reply _ _ _) (Device.lawful_of_same rfl rfl rfl rfl rfl rfl)

theorem lawful_readClearOrder (o : OrderParcel) (d : Device) : d.Lawful (readClearOrder o d) :=
  Device.lawful_ite (d.lawful_reply _ _ _)
    (Device.lawful_ite (d.lawful_reply _ _ _)
      (.after (Device.lawful_reply _ _ _ _) (Device.lawful_of_same rfl rfl rfl rfl rfl rfl)))

theorem Device.lawful_windowDone (d : Device) (w : WindowRead) (r0 r1 : Word) (addr : Nat) : d.Lawful (d.windowDone w r0 r1 addr) := by
  have freed : d.Lawful { d with ls := { d.ls with service := none } } := Device.lawful_of_same rfl rfl rfl rfl rfl rfl
  unfold Device.windowDone
  dsimp only
  split
  · exact freed.trans (Device.lawful_finishExec _ _ _ _)
  · exact freed

/-! ### Jobs -/

theorem Device.lawful_endPipelines (d : Device) (k : Bool) : d.Lawful (d.endPipelines k) :=
  Device.lawful_of_quiet (d.quiet_endPipelines k) (d.orderly_endPipelines k)

theorem Device.lawful_pc (d : Device) (pc : PageControl) : d.Lawful { d with pc := pc } :=
  Device.lawful_of_same rfl rfl rfl rfl rfl rfl

theorem Device.lawful_prepareAll (d : Device) : d.Lawful d.prepareAll :=
  Device.lawful_of_quiet d.quiet_prepareAll d.orderly_prepareAll

theorem Device.lawful_flush (d : Device) : d.Lawful d.flush := Device.lawful_of_same rfl rfl rfl rfl rfl rfl

theorem Device.lawful_startPosition (d : Device) : d.Lawful d.startPosition :=
  d.lawful_pu _ (fun _ => Nat.zero_le _) fun _ => Nat.zero_le _

theorem Device.lawful_establishRings (d : Device) : d.Lawful d.establishRings := d.lawful_blocks _ _ _ _ _

theorem Device.lawful_startJob (d : Device) : d.Lawful d.startJob := by
  have cleared : d.Lawful ((d.endPipelines false).flush.establishRings).startPosition :=
    (((d.lawful_endPipelines false).trans (Device.lawful_flush _)).trans (Device.lawful_establishRings _)).trans
      (Device.lawful_startPosition _)
  unfold Device.startJob
  dsimp only
  generalize ((d.endPipelines false).flush.establishRings).startPosition = e at cleared ⊢
  exact .after (Device.lawful_prepareAll _) (.after (Device.lawful_blocks _ _ _ _ _ _) cleared)

theorem lawful_startOrder (o : OrderParcel) (d : Device) : d.Lawful (startOrder o d) := by
  unfold startOrder
  refine Device.lawful_ite (d.lawful_reply _ _ _) ?_
  split
  · exact d.lawful_reply _ _ _
  · exact .after (Device.lawful_reply _ _ _ _) d.lawful_startJob

theorem Device.lawful_endStopping (d : Device) : d.Lawful d.endStopping :=
  Device.lawful_of_quiet d.quiet_endStopping d.orderly_endStopping

theorem Device.lawful_stopJob (d : Device) : d.Lawful d.stopJob := by
  have removed : ∀ tags, d.Lawful (if d.landingOf tags then (d.modRings (Ring.removeTags · tags)).abandonLanding
      else d.modRings (Ring.removeTags · tags)) := fun tags =>
    Device.lawful_ite (Device.lawful_of_same rfl rfl rfl rfl rfl rfl) (Device.lawful_of_same rfl rfl rfl rfl rfl rfl)
  exact Device.lawful_ite (((removed _).trans (Device.lawful_pc _ _)).trans (Device.lawful_endStopping _))
    ((removed _).trans (Device.lawful_pc _ _))

theorem lawful_stopOrder (o : OrderParcel) (d : Device) : d.Lawful (stopOrder o d) := by
  unfold stopOrder
  split
  · exact d.lawful_reply _ _ _
  · exact d.lawful_reply _ _ _
  · exact d.lawful_stopJob.trans (Device.lawful_reply _ _ _ _)

theorem Device.lawful_abortJob (d : Device) : d.Lawful d.abortJob := by
  have calm : ∀ e : Device, e.Lawful e.calmRows := fun e => Device.lawful_of_quiet e.quiet_calmRows e.orderly_calmRows
  have cleared := (((d.lawful_endPipelines false).trans (Device.lawful_flush _)).trans (calm _)).trans (Device.lawful_setEvent _ .jobStopped)
  unfold Device.abortJob
  dsimp only
  generalize ((d.endPipelines false).flush.calmRows).setEvent .jobStopped = e at cleared ⊢
  exact .after (Device.lawful_blocks _ _ _ _ _ _) cleared

theorem lawful_abortOrder (o : OrderParcel) (d : Device) : d.Lawful (abortOrder o d) :=
  Device.lawful_ite (d.lawful_abortJob.trans (Device.lawful_reply _ _ _ _)) (d.lawful_reply _ _ _)

theorem lawful_announceOrder (o : OrderParcel) (d : Device) : d.Lawful (announceOrder o d) := by
  have announced : d.Lawful (d.announcePage o.pageTag o.pageLength) :=
    Device.lawful_ite (Device.lawful_of_same rfl rfl rfl rfl rfl rfl) (d.lawful_pc _)
  exact Device.lawful_ite (d.lawful_reply _ _ _) (Device.lawful_ite (d.lawful_reply _ _ _)
    (Device.lawful_ite (d.lawful_reply _ _ _) (announced.trans (Device.lawful_reply _ _ _ _))))

theorem Device.lawful_trigger (d : Device) (k : Trigger) : d.Lawful (d.trigger k).1 :=
  Device.lawful_of_quiet (d.quiet_trigger k) (d.orderly_trigger k)

theorem lawful_goOrder (o : OrderParcel) (d : Device) : d.Lawful (goOrder o d) :=
  Device.lawful_ite ((d.lawful_trigger .go).trans (Device.lawful_reply _ _ _ _)) (d.lawful_reply _ _ _)

theorem Device.lawful_checkLoads (d : Device) : d.Lawful d.checkLoads := by
  unfold Device.checkLoads
  split
  · exact Device.lawful_ite (.refl d) (d.lawful_finishExec _ _ _)
  · exact .refl d

theorem Device.lawful_startLoad (d : Device) (p : PortIx) : d.Lawful (d.startLoad p) :=
  Device.lawful_of_quiet (d.quiet_startLoad p) (d.orderly_startLoad p)

theorem lawful_loadWavesOrder (o : OrderParcel) (d : Device) : d.Lawful (loadWavesOrder o d) := by
  have started : d.Lawful (allPorts.foldl (fun e p => if o.names p then e.startLoad p else e) d) :=
    Device.Lawful.foldl _ (fun e p => Device.lawful_ite (e.lawful_startLoad p) (.refl e)) _ d
  exact Device.lawful_ite (d.lawful_reply _ _ _)
    (.after (Device.lawful_checkLoads _) (.after (Device.lawful_blocks _ _ _ _ _ _) started))

theorem Device.lawful_unpark (d : Device) (p : PortIx) : d.Lawful (d.modPort p HeadPort.unpark) := by
  by_cases parked : (d.port p).state = .parked
  · refine d.lawful_modPort p _ ?_ ?_ (.inr (by simp [parked]))
    · exact fun rise => by simpa [HeadPort.unpark, parked] using rise
    · exact fun _ => by simp [HeadPort.unpark, parked]
  · have kept : (d.port p).unpark = d.port p := if_neg parked
    exact d.lawful_modPort p _ (by rw [kept]; exact id) (by rw [kept]; exact id) (.inl (by rw [kept]))

theorem lawful_unparkOrder (o : OrderParcel) (d : Device) : d.Lawful (unparkOrder o d) :=
  (Device.Lawful.foldl _ (fun e p => Device.lawful_ite (e.lawful_unpark p) (.refl e)) _ d).trans (Device.lawful_reply _ _ _ _)

theorem lawful_resetOrderEffect (o : OrderParcel) (d : Device) : d.Lawful (resetOrderEffect o d) :=
  (d.lawful_pushReply o.hdr .ok [] true).trans (Device.lawful_of_same rfl rfl rfl rfl rfl rfl)

/-! ### Landing and fetches -/

theorem Device.lawful_applyAcceptance (d : Device) (pl : PageLine) (p : PortIx) (a : Acceptance) :
    d.Lawful (d.applyAcceptance pl p a) := by
  cases a with
  | outOfPage => exact d.lawful_countHead p _ _
  | stale => exact d.lawful_countHead p _ _
  | late => exact Device.lawful_of_same rfl rfl rfl rfl rfl rfl
  | overrun => exact Device.lawful_of_same rfl rfl rfl rfl rfl rfl
  | accepted => exact Device.lawful_of_same rfl rfl rfl rfl rfl rfl

theorem Device.lawful_pickup (d : Device) : d.Lawful d.pickup := by
  unfold Device.pickup
  split
  · refine Device.lawful_ite ?_ (.refl d)
    have taken : ∀ rest, d.Lawful { d with ib := { d.ib with complete := rest } } :=
      fun rest => Device.lawful_of_same rfl rfl rfl rfl rfl rfl
    split
    · exact (taken _).trans (Device.lawful_count _ _ _)
    · exact ((taken _).trans (Device.Lawful.foldl _ (fun e p => e.lawful_applyAcceptance _ p _) _ _)).trans
        (Device.lawful_of_same rfl rfl rfl rfl rfl rfl)
  · exact .refl d

theorem Device.lawful_raiseWrite (d : Device) : d.Lawful d.raiseWrite := by
  unfold Device.raiseWrite
  split
  · split
    · exact Device.lawful_of_same rfl rfl rfl rfl rfl rfl
    · exact .refl d
  · exact .refl d

theorem Device.lawful_landHead (g : Landing) (d : Device) (p : PortIx) : d.Lawful (Device.landHead g d p) := by
  have landed : d.Lawful (d.modRing p fun ring => (ring.land g.copy.page).release) := Device.lawful_of_same rfl rfl rfl rfl rfl rfl
  exact ((landed.trans (Device.lawful_countHead _ p .landed 1)).trans (Device.lawful_countHead _ p .lostDrops _)).trans
    (Device.lawful_of_quiet (Device.quiet_slotLanded _ p _) (Device.orderly_slotLanded _ p _))

theorem Device.lawful_writeDone (d : Device) : d.Lawful d.writeDone := by
  unfold Device.writeDone
  split
  · next g _ =>
    refine Device.lawful_ite ?_ (Device.lawful_of_same rfl rfl rfl rfl rfl rfl)
    exact .after (Device.Lawful.foldl _ (Device.lawful_landHead g) _ _) (d.lawful_blocks _ _ _ _ _)
  · exact .refl d

/-- Bytes stored in the memory. -/
theorem Device.lawful_mem (d : Device) (mem : List Host.Cell) (ls : LineStore) (wf : Memory.wf d.mem → Memory.wf mem) :
    d.Lawful { d with mem := mem, ls := ls } :=
  ⟨fun maps => ⟨wf maps.1, maps.2⟩, id, id⟩

theorem Device.lawful_landWriteDone (d : Device) (w : LandWrite) : d.Lawful (d.landWriteDone w) := by
  have stored := d.lawful_mem (writeBytes d.mem w.addr w.bytes) { d.ls with service := none } (Memory.wf_writeBytes _ _ _)
  exact Device.lawful_ite (stored.trans (Device.lawful_writeDone _)) stored

theorem Device.lawful_fetchDone (d : Device) (f : Fetch) : d.Lawful (d.fetchDone f) :=
  .after (Device.lawful_of_quiet (Device.quiet_takeFetched _ _ _) (Device.orderly_takeFetched _ _ _)) (d.lawful_blocks _ _ _ _ _)

/-! ### The web -/

theorem Position.loseReference_debt (u : Position) : u.loseReference.debt = u.debt := rfl

theorem Position.measure_phase (u : Position) (now : Nat) : (u.measure now).phase = u.phase := by
  unfold Position.measure
  split <;> rfl

theorem Position.measure_debt (u : Position) (now : Nat) : (u.measure now).debt = u.debt := by
  unfold Position.measure
  split <;> rfl

theorem Position.advance_debt (u : Position) (a : Nat) : (u.advance a).debt = u.debt := by
  unfold Position.advance
  split <;> rfl

/-- An advance of at most a line keeps the phase below a line (R104). -/
theorem Position.advance_phase_le (u : Position) (a : Nat) (phase : u.phase ≤ 65535) (line : a ≤ 65536) : (u.advance a).phase ≤ 65535 := by
  unfold Position.advance Config.lineUnits
  split
  · change u.phase + a - 65536 ≤ 65535
    omega
  · change u.phase + a ≤ 65535
    omega

theorem edgeAdvance_fst_le (ratio debt : Nat) : (edgeAdvance ratio debt).1 ≤ ratio := by
  unfold edgeAdvance
  split
  · exact Nat.zero_le _
  · exact Nat.sub_le _ _

theorem edgeAdvance_snd_le (ratio debt : Nat) : (edgeAdvance ratio debt).2 ≤ debt := by
  unfold edgeAdvance
  split
  · exact Nat.sub_le _ _
  · exact Nat.zero_le _

/-- The web's registers after a forward edge: debt and interval, then phase and line count. -/
def Device.edgeMoved (d : Device) : Device :=
  let adv := edgeAdvance d.tab.job.pitchRatio d.pu.debt
  let u : Position := { d.pu with debt := adv.2 }
  { d with pu := (if adv.1 = d.tab.job.pitchRatio then u.measure d.now else u.loseReference).advance adv.1 }

theorem Device.lawful_edgeMoved (d : Device) : d.Lawful d.edgeMoved := by
  have bounds : ∀ u : Position, u.phase = d.pu.phase → u.debt = (edgeAdvance d.tab.job.pitchRatio d.pu.debt).2 → d.inRange →
      (u.advance (edgeAdvance d.tab.job.pitchRatio d.pu.debt).1).phase ≤ 65535 ∧
      (u.advance (edgeAdvance d.tab.job.pitchRatio d.pu.debt).1).debt ≤ 1048576 := by
    rintro u phase debt ⟨-, ⟨low, owed, ratio, -⟩, -⟩
    refine ⟨u.advance_phase_le _ (phase ▸ low) ((edgeAdvance_fst_le _ _).trans ratio), ?_⟩
    rw [Position.advance_debt, debt]
    exact (edgeAdvance_snd_le _ _).trans owed
  have moved : d.inRange → d.edgeMoved.pu.phase ≤ 65535 ∧ d.edgeMoved.pu.debt ≤ 1048576 := by
    unfold Device.edgeMoved
    dsimp only
    split
    · exact bounds _ (Position.measure_phase _ _) (Position.measure_debt _ _)
    · exact bounds _ rfl rfl
  exact d.lawful_pu _ (fun range => (moved range).1) fun range => (moved range).2

theorem Device.lawful_globalLine (d : Device) (wrapped : Bool) : d.Lawful (if wrapped && d.jobActive then d.globalLineEvent else d) :=
  Device.lawful_ite (Device.lawful_of_quiet d.quiet_globalLineEvent d.orderly_globalLineEvent) (.refl d)

theorem Device.lawful_crossAll (crossed : List ((PortIx × RowIx) × Pos)) (d : Device) :
    d.Lawful (crossed.foldl (fun e c => e.cross c.1.1 c.1.2 c.2) d) :=
  Device.Lawful.foldl (fun (e : Device) (c : (PortIx × RowIx) × Pos) => e.cross c.1.1 c.1.2 c.2)
    (fun e c => Device.lawful_of_quiet (e.quiet_cross c.1.1 c.1.2 c.2) (e.orderly_cross c.1.1 c.1.2 c.2)) _ d

theorem Device.lawful_edgeEvents (d : Device) (order : EdgeOrder) : d.Lawful (d.edgeEvents order) := by
  have arm : ∀ e : Device, e.Lawful e.armTimers := fun e => Device.lawful_of_quiet e.quiet_armTimers e.orderly_armTimers
  have events : ∀ (wrapped : Bool) (crossed : List ((PortIx × RowIx) × Pos)), d.Lawful (match order with
      | .lineFirst => crossed.foldl (fun e c => e.cross c.1.1 c.1.2 c.2)
          (if wrapped && d.edgeMoved.jobActive then d.edgeMoved.globalLineEvent else d.edgeMoved)
      | .rowsFirst =>
        let e := crossed.foldl (fun e c => e.cross c.1.1 c.1.2 c.2) d.edgeMoved
        if wrapped && e.jobActive then e.globalLineEvent else e) := by
    intro wrapped crossed
    cases order with
    | lineFirst => exact (d.lawful_edgeMoved.trans (Device.lawful_globalLine _ _)).trans (Device.lawful_crossAll _ _)
    | rowsFirst => exact (d.lawful_edgeMoved.trans (Device.lawful_crossAll _ _)).trans (Device.lawful_globalLine _ _)
  exact Device.lawful_ite ((events _ _).trans (arm _)) (events _ _)

theorem Device.lawful_inRowOrder (a d : Device) : d.Lawful (a.inRowOrder d) :=
  Device.lawful_of_quiet (Device.quiet_inRowOrder a d) (Device.orderly_inRowOrder a d)

theorem Device.lawful_backwardEdge (d : Device) : d.Lawful d.backwardEdge := by
  have moved : d.Lawful { d with pu := Position.loseReference { d.pu with
      debt := min (d.pu.debt + d.tab.job.pitchRatio) Config.debtLimit, rows := mapRows RowPosition.cancel d.pu.rows } } :=
    d.lawful_pu _ (fun range => range.2.1.1) fun _ => Nat.min_le_right _ _
  exact Device.lawful_ite ((moved.trans (Device.lawful_setEvent _ .reverseLimit)).trans (Device.lawful_count _ .reverseLimits 1)) moved

theorem Device.lawful_encoderError (d : Device) : d.Lawful d.encoderError :=
  ((d.lawful_pu d.pu.loseReference (fun range => range.2.1.1) fun range => range.2.1.2.1).trans
    (Device.lawful_setEvent _ .encoderError)).trans (Device.lawful_count _ .encoderErrors 1)

theorem Device.lawful_filteredTransition (d : Device) (order : EdgeOrder) : d.Lawful (d.filteredTransition order) := by
  have decoded : ∀ a b pair, d.Lawful { d with pu := { d.pu with chA := a, chB := b, pair := pair } } := fun a b pair =>
    d.lawful_pu _ (fun range => range.2.1.1) fun range => range.2.1.2.1
  refine Device.lawful_ite (Device.lawful_ite ?_ (decoded _ _ _)) (.refl d)
  split
  · exact decoded _ _ _
  · exact ((decoded _ _ _).trans (Device.lawful_edgeEvents _ _)).trans (Device.lawful_inRowOrder _ _)
  · exact (decoded _ _ _).trans (Device.lawful_backwardEdge _)
  · exact (decoded _ _ _).trans (Device.lawful_encoderError _)

theorem Device.lawful_sampleChannel (d : Device) (c : Channel) (level : Bool) : d.Lawful (d.sampleChannel c level) := by
  cases c with
  | a => exact d.lawful_pu _ (fun range => range.2.1.1) fun range => range.2.1.2.1
  | b => exact d.lawful_pu _ (fun range => range.2.1.1) fun range => range.2.1.2.1

theorem Device.lawful_pdiChange (d : Device) (level : Bool) : d.Lawful (d.pdiChange level) := by
  unfold Device.pdiChange
  refine Device.lawful_ite (d.lawful_pc _) ?_
  split
  · exact d.lawful_pc _
  · exact Device.lawful_ite (d.lawful_pc _) (d.lawful_pc _)

theorem Device.lawful_pdiExpiry (d : Device) : d.Lawful d.pdiExpiry :=
  Device.lawful_ite (Device.lawful_ite ((d.lawful_pc _).trans (Device.lawful_trigger _ _)) (d.lawful_pc _)) (.refl d)

/-! ### Ports -/

/-- The arbiter's choice leaves the port's state, its silent counter and its ages. -/
theorem HeadPort.choose_eq (hp : HeadPort) : hp.choose = { hp with
    current := hp.choose.current, tokens := hp.choose.tokens, progress := hp.choose.progress, frames := hp.choose.frames
    lastRow := hp.choose.lastRow } := by
  unfold HeadPort.choose
  split
  · rfl
  · split
    · rfl
    · split <;> rfl

theorem HeadPort.choose_state (hp : HeadPort) : hp.choose.state = hp.state := by rw [HeadPort.choose_eq]
theorem HeadPort.choose_ages (hp : HeadPort) : hp.choose.ages = hp.ages := by rw [HeadPort.choose_eq]
theorem HeadPort.choose_silent (hp : HeadPort) : hp.choose.silent = hp.silent := by rw [HeadPort.choose_eq]

theorem Device.lawful_boundary (d : Device) (p : PortIx) : d.Lawful (d.boundary p) :=
  d.lawful_modPort p _ (by rw [HeadPort.choose_ages]; exact id) (by rw [HeadPort.choose_silent]; exact id) (.inl (HeadPort.choose_state _))

theorem Device.lawful_frameSent (d : Device) (p : PortIx) : d.Lawful (d.frameSent p) := by
  unfold Device.frameSent
  split
  · refine Device.lawful_ite ?_ (.refl d)
    have ended := d.lawful_modPort p (fun hp => { hp with progress := none }) id id (.inl rfl)
    exact (ended.trans (Device.lawful_of_quiet (Device.quiet_frameDone _ _ _) (Device.orderly_frameDone _ _ _))).trans
      (Device.lawful_boundary _ _)
  · exact .refl d

theorem Device.lawful_autoPark (d : Device) (p : PortIx) : d.Lawful (d.autoPark p) :=
  Device.lawful_of_quiet (d.quiet_autoPark p) (d.orderly_autoPark p)

theorem Device.lawful_goSilent (d : Device) (p : PortIx) : d.Lawful (d.goSilent p) := Device.lawful_of_same rfl rfl rfl rfl rfl rfl

theorem Device.lawful_fireSent (d : Device) (p : PortIx) : d.Lawful (d.fireSent p) := by
  have counted := d.lawful_modPort p (fun hp => { hp with silent := min Config.silentLimit (hp.silent + 1) }) id
    (fun _ => Nat.min_le_left _ _) (.inl rfl)
  exact Device.lawful_ite (((counted.trans (Device.lawful_goSilent _ p)).trans (Device.lawful_autoPark _ p)).trans
    (Device.lawful_checkLoads _)) counted

theorem Device.lawful_laneSync (d : Device) (p : PortIx) : d.Lawful (d.modPort p HeadPort.laneSync) := by
  refine d.lawful_modPort p _ id id ?_
  by_cases down : (d.port p).sync = .lost ∧ (d.port p).state = .down
  · exact .inr (by simp [down.2])
  · exact .inl (if_neg down)

theorem Device.lawful_quenchPort (d : Device) (p : PortIx) (st : PortState) : d.Lawful (d.quenchPort p st) :=
  Device.lawful_of_quiet (d.quiet_quenchPort p st) (d.orderly_quenchPort p st)

theorem Device.lawful_laneLost (d : Device) (p : PortIx) : d.Lawful (d.laneLost p) := by
  have lost := d.lawful_modPort p (fun hp => { hp with sync := .lost }) id id (.inl rfl)
  have down := (((lost.trans (Device.lawful_quenchPort _ p .down)).trans
    (Device.lawful_setHeadEvent _ p .headLaneLost)).trans
    (Device.lawful_countHead _ p .laneLosses 1)).trans (Device.lawful_checkLoads _)
  unfold Device.laneLost
  refine Device.lawful_ite (.refl d) ?_
  dsimp only
  split
  · exact lost
  · exact lost
  all_goals exact down

/-- A message that a port hears. -/
theorem Device.lawful_receive {α : Type} (d : Device) (p : PortIx) (first : Byte) (code : Option Byte) (pick : HeadMessage → Option α)
    (act : α → Device → Device) (acted : ∀ x (e : Device), e.Lawful (act x e)) : d.Lawful (d.receive p first code pick act) := by
  have heard := d.lawful_modPort p (fun hp => { hp with silent := 0 }) id (fun _ => Nat.zero_le _) (.inl rfl)
  unfold Device.receive
  split
  · exact Device.lawful_ite (heard.trans (acted _ _)) (.refl d)
  · exact .refl d

theorem Device.lawful_waveAck (d : Device) (p : PortIx) (i : Fin 4) : d.Lawful (d.waveAck p i) := by
  by_cases loading : (d.port p).state = .loading
  · have acked := d.lawful_modPort p (fun hp => { hp with acked := vset hp.acked i true }) id id (.inl rfl)
    have ready : ∀ e : Device, (e.port p).state = .loading → e.Lawful (e.enterReady p) := fun e waiting =>
      e.lawful_modPort p _ (fun _ => rfl) (fun _ => Nat.zero_le _) (.inr (by simp [waiting]))
    rw [Device.waveAck, if_pos loading]
    exact Device.lawful_ite ((acked.trans (ready _ (by rw [Device.port_modPort_same]; exact loading))).trans (Device.lawful_checkLoads _))
      acked
  · rw [Device.waveAck, if_neg loading]
    exact .refl d

theorem Device.lawful_headFault (d : Device) (p : PortIx) (code : Byte) : d.Lawful (d.headFault p code) := by
  have recorded := d.lawful_modPort p (fun hp => { hp with fault := some code }) id id (.inl rfl)
  exact (((recorded.trans (Device.lawful_setHeadEvent _ p .headFault)).trans
    (Device.lawful_countHead _ p .faults 1)).trans (Device.lawful_autoPark _ p)).trans (Device.lawful_checkLoads _)

theorem Device.lawful_loadExpiry (d : Device) (p : PortIx) : d.Lawful (d.loadExpiry p) := by
  by_cases expired : (d.port p).state = .loading ∧ due d.now (d.port p).loadAt = true
  · have ended : ∀ st, d.Lawful (d.modPort p fun hp => hp.endLoad st) := fun st =>
      d.lawful_modPort p _ id id (.inr (by simp [expired.1]))
    rw [Device.loadExpiry, if_pos expired]
    exact ((ended _).trans (Device.lawful_goSilent _ p)).trans (Device.lawful_checkLoads _)
  · rw [Device.loadExpiry, if_neg expired]
    exact .refl d

/-- Last fire times set leave every row's stage, latch and hold. -/
theorem Device.lawful_firedAt (d : Device) (p : PortIx) (now : Nat) :
    d.Lawful { d with rf := vmod d.rf p (vmap (Pipeline.firedAt now)) } := by
  refine ⟨id, id, fun rest q r passing => ?_⟩
  have eq : Device.pipe { d with rf := vmod d.rf p (vmap (Pipeline.firedAt now)) } q r =
      if q = p then (d.pipe q r).firedAt now else d.pipe q r := by
    simp only [Device.pipe, rget_vmod, vget_vmap]
    rfl
  rw [eq]
  split
  · exact rest q r passing
  · exact rest q r passing

theorem Device.lawful_tickleAll (d : Device) (p : PortIx) : d.Lawful (d.tickleAll p) := by
  have raised := Device.lawful_of_quiet (d.quiet_raiseToken p .tickleAll) (d.orderly_raiseToken p .tickleAll)
  exact Device.lawful_ite ((raised.trans (Device.lawful_firedAt _ p d.now)).trans
    (Device.lawful_modPort _ p _ (fun _ => rfl) id (.inl rfl))) (.refl d)

end Sys2Proof.Machine
end

section
/-! PROOFS. What the operations of a row and of a port leave unchanged: everything but the port's own rows, lane and head counters, and
the row fetches. -/

namespace Sys2Proof.Machine

/-- `b` follows from `a` by changes of port `p`, of its rows that `R` picks, of its head's counters, and of row fetches alone. -/
structure Device.LocalTo (p : PortIx) (R : RowIx → Prop) (a b : Device) : Prop where
  same : b = { a with
    ou := { a.ou with headCounts := b.ou.headCounts }
    ls := { a.ls with fetchQ := b.ls.fetchQ, fetchRaised := b.ls.fetchRaised, service := b.ls.service }
    rf := b.rf
    hp := b.hp }
  port : ∀ q, q ≠ p → b.port q = a.port q
  pipe : ∀ q r, ¬ (q = p ∧ R r) → b.pipe q r = a.pipe q r
  headCounter : ∀ q c, q ≠ p → b.headCounter q c = a.headCounter q c

namespace Device.LocalTo
variable {p : PortIx} {R : RowIx → Prop} {a b c : Device}

theorem refl (a : Device) : a.LocalTo p R a := ⟨rfl, fun _ _ => rfl, fun _ _ _ => rfl, fun _ _ _ => rfl⟩

theorem trans (h : a.LocalTo p R b) (k : b.LocalTo p R c) : a.LocalTo p R c where
  same := by
    rw [k.same, h.same]
  port q ne := (k.port q ne).trans (h.port q ne)
  pipe q r out := (k.pipe q r out).trans (h.pipe q r out)
  headCounter q x ne := (k.headCounter q x ne).trans (h.headCounter q x ne)

/-- The last operation first. -/
theorem after (k : b.LocalTo p R c) (h : a.LocalTo p R b) : a.LocalTo p R c := h.trans k

theorem mono {S : RowIx → Prop} (h : a.LocalTo p R b) (sub : ∀ r, R r → S r) : a.LocalTo p S b :=
  ⟨h.same, h.port, fun q r out => h.pipe q r fun is => out ⟨is.1, sub r is.2⟩, h.headCounter⟩

theorem foldl {β : Type} (f : Device → β → Device) (l : List β) (hf : ∀ d, ∀ x ∈ l, Device.LocalTo p R d (f d x)) (d : Device) :
    d.LocalTo p R (l.foldl f d) := by
  induction l generalizing d with
  | nil => exact refl d
  | cons x l ih =>
    exact (hf d x List.mem_cons_self).trans (ih (fun d y mem => hf d y (List.mem_cons_of_mem x mem)) _)

theorem ite {P : Prop} [Decidable P] (h : a.LocalTo p R b) (k : a.LocalTo p R c) : a.LocalTo p R (if P then b else c) := by
  split
  · exact h
  · exact k

/-! The blocks that stay. -/

theorem tab (h : a.LocalTo p R b) : b.tab = a.tab := by rw [h.same]
theorem mem (h : a.LocalTo p R b) : b.mem = a.mem := by rw [h.same]
theorem now (h : a.LocalTo p R b) : b.now = a.now := by rw [h.same]
theorem cp (h : a.LocalTo p R b) : b.cp = a.cp := by rw [h.same]
theorem pu (h : a.LocalTo p R b) : b.pu = a.pu := by rw [h.same]
theorem pc (h : a.LocalTo p R b) : b.pc = a.pc := by rw [h.same]
theorem rings (h : a.LocalTo p R b) : b.ls.rings = a.ls.rings := by rw [h.same]
theorem devEvents (h : a.LocalTo p R b) : b.ou.devEvents = a.ou.devEvents := by rw [h.same]
theorem exec (h : a.LocalTo p R b) : b.ou.exec = a.ou.exec := by rw [h.same]
theorem head (h : a.LocalTo p R b) (q : PortIx) : b.head q = a.head q := by simp only [Device.head, h.tab]
theorem ring (h : a.LocalTo p R b) (q : PortIx) : b.ring q = a.ring q := by simp only [Device.ring, h.rings]
theorem mfi (h : a.LocalTo p R b) (q : PortIx) : b.mfi q = a.mfi q := by simp only [Device.mfi, h.tab, h.head]
theorem rowPos (h : a.LocalTo p R b) (q : PortIx) (r : RowIx) : b.rowPos q r = a.rowPos q r := by simp only [Device.rowPos, h.pu]
theorem standing (h : a.LocalTo p R b) (q : PortIx) (r : RowIx) : b.standing q r = a.standing q r := by
  simp only [Device.standing, h.rowPos]
theorem rowEnabled (h : a.LocalTo p R b) (q : PortIx) (r : RowIx) : b.rowEnabled q r = a.rowEnabled q r :=
  Device.rowEnabled_congr h.tab q r
theorem jobActive (h : a.LocalTo p R b) : b.jobActive = a.jobActive := by simp only [Device.jobActive, h.pc]

end Device.LocalTo

/-! ### The operations of a row and a port -/

section Operations
variable {p : PortIx} {R : RowIx → Prop}

theorem Device.localTo_modPort (d : Device) (f : HeadPort → HeadPort) : d.LocalTo p R (d.modPort p f) :=
  ⟨rfl, fun q ne => (d.port_modPort p q f).trans (if_neg ne), fun _ _ _ => rfl, fun _ _ _ => rfl⟩

theorem Device.localTo_modPipe (d : Device) {r : RowIx} (f : Pipeline → Pipeline) (picked : R r) : d.LocalTo p R (d.modPipe p r f) :=
  ⟨rfl, fun _ _ => rfl, fun q s out => (d.pipe_modPipe p q r s f).trans (if_neg fun (is : q = p ∧ s = r) => out ⟨is.1, is.2 ▸ picked⟩),
    fun _ _ _ => rfl⟩

theorem Device.localTo_countHead (d : Device) (c : HeadCounter) (n : Nat) : d.LocalTo p R (d.countHead p c n) :=
  ⟨rfl, fun _ _ => rfl, fun _ _ _ => rfl, fun q k ne => (d.headCounter_countHead p q c k n).trans (if_neg fun is => ne is.1)⟩

theorem Device.localTo_raiseFetch (d : Device) (r : RowIx) (pl : PageLine) (g : Ring) (i : Nat) :
    d.LocalTo p R (d.raiseFetch p r pl g i) := ⟨rfl, fun _ _ => rfl, fun _ _ _ => rfl, fun _ _ _ => rfl⟩

theorem Device.localTo_raiseToken (d : Device) (t : Token) : d.LocalTo p R (d.raiseToken p t) :=
  .ite (d.localTo_modPort _) (.refl d)

theorem Device.localTo_restartTickle (d : Device) : d.LocalTo p R (d.restartTickle p) := .ite (d.localTo_modPort _) (.refl d)

theorem Device.localTo_resolveFetch (d : Device) {r : RowIx} (picked : R r) : d.LocalTo p R (d.resolveFetch p r) := by
  unfold Device.resolveFetch
  dsimp only
  split
  · split
    · exact .after (Device.localTo_raiseFetch _ r _ _ _) (d.localTo_modPipe _ picked)
    · exact d.localTo_modPipe _ picked
    · exact d.localTo_modPipe _ picked
  · exact .refl d

theorem Device.localTo_fillStage (d : Device) {r : RowIx} (picked : R r) : d.LocalTo p R (d.fillStage p r) :=
  .ite (.ite (.after (Device.localTo_resolveFetch _ picked) (d.localTo_modPipe _ picked))
    (.after (Device.localTo_modPipe _ _ picked) (d.localTo_modPipe _ picked))) (.refl d)

theorem Device.localTo_handOver (d : Device) {r : RowIx} (picked : R r) : d.LocalTo p R (d.handOver p r) := by
  unfold Device.handOver
  split
  · exact .ite (.after (Device.localTo_fillStage _ picked) (.after (Device.localTo_modPipe _ _ picked) (d.localTo_modPort _))) (.refl d)
  · exact .refl d

theorem Device.localTo_prepare (d : Device) {r : RowIx} (picked : R r) : d.LocalTo p R (d.prepare p r) :=
  .after (Device.localTo_handOver _ picked) (d.localTo_fillStage picked)

theorem Device.localTo_fire (d : Device) {r : RowIx} (picked : R r) : d.LocalTo p R (d.fire p r) :=
  .after (Device.localTo_restartTickle _) (.after (Device.localTo_countHead _ _ _)
    (.after (Device.localTo_modPipe _ _ picked) (d.localTo_raiseToken _)))

theorem Device.localTo_releaseHold (d : Device) {r : RowIx} (picked : R r) : d.LocalTo p R (d.releaseHold p r) :=
  .after (Device.localTo_handOver _ picked) (d.localTo_fire picked)

theorem Device.localTo_rowModeChanged (d : Device) {r : RowIx} (picked : R r) : d.LocalTo p R (d.rowModeChanged p r) :=
  .ite (.after (Device.localTo_prepare _ picked) (d.localTo_modPipe _ picked)) (.refl d)

theorem Device.localTo_clearIfDisabled (d : Device) {r : RowIx} (picked : R r) : d.LocalTo p R (d.clearIfDisabled p r) :=
  .ite (.refl d) (d.localTo_modPipe _ picked)

theorem Device.localTo_frameDone (d : Device) (f : Frame) (picked : R f.row) : d.LocalTo p R (d.frameDone p f) := by
  unfold Device.frameDone
  refine .ite (.ite (d.localTo_raiseToken _) (.refl d)) ?_
  split
  · exact .ite (d.localTo_modPipe _ picked)
      (.after (Device.localTo_handOver _ picked) (.after (Device.localTo_modPipe _ _ picked) (d.localTo_raiseToken _)))
  · exact .refl d
  · exact .refl d

theorem Device.localTo_boundary (d : Device) : d.LocalTo p R (d.boundary p) := d.localTo_modPort _

end Operations

section Ports
variable {p : PortIx}

theorem Device.localTo_rowsLeaveReady (d : Device) : d.LocalTo p (fun _ => True) (d.rowsLeaveReady p) :=
  ⟨rfl, fun _ _ => rfl, fun q r out => (d.rowsLeaveReady_pipe p q r).trans (if_neg fun is => out ⟨is, trivial⟩), fun _ _ _ => rfl⟩

theorem Device.localTo_leaveReady (d : Device) (st : PortState) : d.LocalTo p (fun _ => True) (d.leaveReady p st) :=
  .after (Device.localTo_rowsLeaveReady _) (d.localTo_modPort _)

theorem Device.localTo_quenchPort (d : Device) (st : PortState) : d.LocalTo p (fun _ => True) (d.quenchPort p st) :=
  .ite (.after (Device.localTo_rowsLeaveReady _) (d.localTo_modPort _)) (d.localTo_modPort _)

theorem Device.localTo_clearDisabledRows (d : Device) : d.LocalTo p (fun _ => True) (d.clearDisabledRows p) :=
  .foldl _ _ (fun e _ _ => e.localTo_clearIfDisabled trivial) d

theorem Device.localTo_afterEnabled (d : Device) : d.LocalTo p (fun _ => True) (d.afterEnabled p) :=
  .ite (.ite (d.localTo_modPort _) (.refl d)) (.ite (.refl d) (d.localTo_quenchPort _))

theorem Device.localTo_afterTestMode (d : Device) (old : TestMode) : d.LocalTo p (fun _ => True) (d.afterTestMode p old) := by
  have seeded : d.LocalTo p (fun _ => True) (if (d.head p).testMode = .prbs ∧ old ≠ .prbs then
      d.modPort p (fun hp => { hp with prbs := .replicate 4 (BitVec.allOnes 15) }) else d) := .ite (d.localTo_modPort _) (.refl d)
  exact .ite seeded (.after (.foldl _ _ (fun e _ _ => e.localTo_rowModeChanged trivial) _) seeded)

theorem Device.localTo_afterSettle (d : Device) : d.LocalTo p (fun _ => True) (d.afterSettle p) :=
  .foldl _ _ (fun e _ _ => .ite (e.localTo_releaseHold trivial) (.refl e)) d

/-- What a WRITE of a port's words brings about stays at the port. -/
theorem Device.localTo_afterPort (d : Device) (o : OrderParcel) (old : Tables) : d.LocalTo p (fun _ => True) (d.afterPort o old p) := by
  have guarded : ∀ (P : Prop) [Decidable P] (f : Device → Device), (∀ e : Device, e.LocalTo p (fun _ => True) (f e)) →
      ∀ e : Device, e.LocalTo p (fun _ => True) (if P then f e else e) := fun P _ f hf e => .ite (hf e) (.refl e)
  exact .after (guarded _ _ (fun e => e.localTo_leaveReady _) _)
    (.after (guarded _ _ (fun e => e.localTo_restartTickle) _)
    (.after (guarded _ _ (fun e => e.localTo_afterSettle) _)
    (.after (guarded _ _ (fun e => e.localTo_afterTestMode _) _)
    (.after (guarded _ _ (fun e => e.localTo_clearDisabledRows) _)
    (guarded _ _ (fun e => e.localTo_afterEnabled) _)))))

end Ports

end Sys2Proof.Machine
end

section
/-! PROOFS. What storing a word changes in the tables: the word's own field, within its range. -/

namespace Sys2Proof.Machine

/-! ### Ports and words by index -/

theorem portN_of_lt {n : Nat} (p : PortIx) : portN n = p ↔ n % 16 = p.val := by
  rw [portN, Fin.ext_iff, Fin.val_ofNat]

/-- A descriptor's word is one of the 256 of table 2. -/
theorem head_word_iff {j k : Nat} (p : PortIx) (hj : j < 256) (hk : k < 16) :
    portN (j / 16) = p ∧ j % 16 = k ↔ j = 16 * p.val + k := by
  rw [portN_of_lt]
  have := p.isLt
  omega

theorem OrderParcel.writes_iff (o : OrderParcel) (table i : Nat) :
    o.writes table i = true ↔ o.table = table ∧ o.start ≤ i ∧ i < o.start + o.data.length := by
  simp only [OrderParcel.writes, Bool.and_eq_true, beq_iff_eq, decide_eq_true_eq, and_assoc]

theorem OrderParcel.writes_false_iff (o : OrderParcel) (table i : Nat) :
    o.writes table i = false ↔ ¬ (o.table = table ∧ o.start ≤ i ∧ i < o.start + o.data.length) := by
  rw [← OrderParcel.writes_iff, Bool.not_eq_true]

/-! ### One word -/

/-- The tables that a stored word leaves. -/
theorem Device.storeWord_tab (d : Device) (table i : Nat) (w : Word) :
    (d.storeWord table i w).1.tab = if table = 8 then d.tab else (d.tab.store table i w).1 := by
  unfold Device.storeWord
  split <;> rfl

/-- Storing changes nothing but the tables and the masks. -/
theorem Device.storeWord_same (d : Device) (table i : Nat) (w : Word) :
    (d.storeWord table i w).1 = { d with
      tab := (d.storeWord table i w).1.tab
      ou := { d.ou with
        devMask := (d.storeWord table i w).1.ou.devMask
        headMasks := (d.storeWord table i w).1.ou.headMasks } } := by
  unfold Device.storeWord OrderUnit.storeMask
  split
  · split <;> rfl
  · rfl

/-- What holds of a device and is kept by every word stored holds after all of them. -/
theorem Device.storeWords_induct {Q : Device → Prop} (table : Nat) (ws : List Word) (i : Nat) (d : Device)
    (word : ∀ e k w, i ≤ k → k < i + ws.length → Q e → Q (e.storeWord table k w).1) (start : Q d) :
    Q (d.storeWords table i ws).1 := by
  induction ws generalizing i d with
  | nil => exact start
  | cons w ws ih =>
    have longer : i + 1 + ws.length = i + (w :: ws).length := by rw [List.length_cons]; omega
    exact ih (i + 1) _ (fun e k v low high => word e k v (by omega) (by omega)) (word d i w le_rfl (by rw [← longer]; omega) start)

theorem Device.storeWords_same (d : Device) (table i : Nat) (ws : List Word) :
    (d.storeWords table i ws).1 = { d with
      tab := (d.storeWords table i ws).1.tab
      ou := { d.ou with
        devMask := (d.storeWords table i ws).1.ou.devMask
        headMasks := (d.storeWords table i ws).1.ou.headMasks } } := by
  refine Device.storeWords_induct (Q := fun e => e = { d with
    tab := e.tab, ou := { d.ou with devMask := e.ou.devMask, headMasks := e.ou.headMasks } }) table ws i d ?_ rfl
  intro e k w _ _ same
  rw [Device.storeWord_same, same]

/-! ### The ranges of the stored fields -/

theorem clamp_le (lo hi v : Nat) (le : lo ≤ hi) : clamp lo hi v ≤ hi := by
  unfold clamp
  omega

theorem JobSettings.store_pitchRatio (s : JobSettings) (i : Nat) (w : Word) (low : s.pitchRatio ≤ 65536) :
    (s.store i w).1.pitchRatio ≤ 65536 := by
  unfold JobSettings.store
  dsimp only
  split
  · split
    · exact Nat.zero_le _
    · exact clamp_le _ _ _ (by decide)
  all_goals exact low

theorem storeRow_fine (rows : Vector RowDescr 4) (i : Nat) (w : Word) (r : RowIx) (low : (vget rows r).fine ≤ 255) :
    (vget (storeRow rows i w).1 r).fine ≤ 255 := by
  unfold storeRow
  split
  · rw [vget_vmod]
    split
    · next eq => subst eq; exact low
    · exact low
  · rw [vget_vmod]
    split
    · exact clamp_le _ _ _ (by decide)
    · exact low

theorem PlaneTable.rising_store_dither (t : PlaneTable) (i : Nat) (w : Word) (h : rising t.dither = true) :
    rising (t.store i w).1.dither = true := by
  unfold PlaneTable.store
  split
  · exact h
  · exact rising_numPut _ _ _ h

/-- The tables' maps are in canonical form. -/
structure Tables.MapsRise (t : Tables) : Prop where
  dither : ∀ k : Fin 8, rising (vget t.planes k).dither = true
  nozzles : ∀ p : PortIx, rising (vget t.nozzles p) = true

/-- The web's settings lie in their ranges. -/
structure Tables.InRange (t : Tables) : Prop where
  pitchRatio : t.job.pitchRatio ≤ 65536
  fine : ∀ p r, (rget t.rows p r).fine ≤ 255

theorem Tables.store_mapsRise (t : Tables) (table i : Nat) (w : Word) (h : t.MapsRise) : (t.store table i w).1.MapsRise := by
  unfold Tables.store
  split
  case h_4 =>
    refine { h with dither := fun k => ?_ }
    rw [vget_vset]
    split
    · exact PlaneTable.rising_store_dither _ _ _ (h.dither _)
    · exact h.dither k
  case h_5 =>
    refine { h with nozzles := fun p => ?_ }
    rw [vget_vmod]
    split
    · exact rising_numPut _ _ _ (h.nozzles _)
    · exact h.nozzles p
  all_goals exact { h with }

theorem Tables.store_inRange (t : Tables) (table i : Nat) (w : Word) (h : t.InRange) : (t.store table i w).1.InRange := by
  unfold Tables.store
  split
  case h_1 => exact { h with pitchRatio := t.job.store_pitchRatio i w h.pitchRatio }
  case h_3 =>
    refine { h with fine := fun p r => ?_ }
    rw [rget, vget_vset]
    split
    · exact storeRow_fine _ _ _ _ (h.fine _ r)
    · exact h.fine p r
  all_goals exact { h with }

/-- What storing any word in the tables keeps, a WRITE's words keep. -/
theorem Device.storeWords_tab {P : Tables → Prop} (word : ∀ (t : Tables) (table i : Nat) (w : Word), P t → P (t.store table i w).1)
    (d : Device) (table i : Nat) (ws : List Word) (h : P d.tab) : P (d.storeWords table i ws).1.tab := by
  refine Device.storeWords_induct (Q := fun e => P e.tab) table ws i d ?_ h
  intro e k w _ _ holds
  rw [Device.storeWord_tab]
  split
  · exact holds
  · exact word e.tab table k w holds

/-! ### A field of a head descriptor stays while its word is not written -/

theorem Device.storeWord_head (d : Device) (table i : Nat) (w : Word) (p : PortIx) :
    (d.storeWord table i w).1.head p = if table = 2 ∧ portN (i / 16) = p then ((d.head p).store (i % 16) w).1 else d.head p := by
  rw [Device.head, Device.storeWord_tab]
  unfold Tables.store
  split
  · next eq => subst eq; rfl
  · split
    case h_2 =>
      rw [vget_vset]
      split
      · next eq => subst eq; simp only [and_self, if_true, Device.head]
      · next ne => rw [if_neg (fun is => ne is.2.symm), Device.head]
    all_goals simp_all [Device.head]

/-- A field that only word `k` of a descriptor holds stays through a WRITE that does not touch the word. -/
theorem Device.storeWords_head {α : Type} (field : HeadDescr → α) (k : Nat) (bound : k < 16)
    (own : ∀ (h : HeadDescr) (i : Nat) (w : Word), i ≠ k → field (h.store i w).1 = field h)
    (d : Device) (o : OrderParcel) (p : PortIx) (fits : o.table = 2 → o.start + o.data.length ≤ 256)
    (apart : o.writes 2 (16 * p.val + k) = false) :
    field ((d.storeWords o.table o.start o.data).1.head p) = field (d.head p) := by
  rw [OrderParcel.writes_false_iff] at apart
  refine Device.storeWords_induct (Q := fun e => field (e.head p) = field (d.head p)) o.table o.data o.start d ?_ rfl
  intro e j w low high same
  rw [Device.storeWord_head]
  split
  · next is =>
    have other : j % 16 ≠ k := fun eq =>
      apart ⟨is.1, by have := (head_word_iff p (by have := fits is.1; omega) bound).1 ⟨is.2, eq⟩; omega⟩
    rw [own _ _ _ other, same]
  · exact same

theorem HeadDescr.store_enabled (h : HeadDescr) (i : Nat) (w : Word) (ne : i ≠ 0) : (h.store i w).1.enabled = h.enabled := by
  unfold HeadDescr.store
  split
  case h_1 => contradiction
  all_goals rfl

theorem HeadDescr.store_rowCount (h : HeadDescr) (i : Nat) (w : Word) (ne : i ≠ 3) : (h.store i w).1.rowCount = h.rowCount := by
  unfold HeadDescr.store
  split
  case h_4 => contradiction
  all_goals rfl

theorem HeadDescr.store_testMode (h : HeadDescr) (i : Nat) (w : Word) (ne : i ≠ 13) : (h.store i w).1.testMode = h.testMode := by
  unfold HeadDescr.store
  split
  case h_14 => contradiction
  all_goals rfl

theorem HeadDescr.store_settle (h : HeadDescr) (i : Nat) (w : Word) (ne : i ≠ 15) : (h.store i w).1.settle = h.settle := by
  unfold HeadDescr.store
  split
  case h_16 => contradiction
  all_goals rfl

end Sys2Proof.Machine
end

section
/-! PROOFS. What filling a stage, a hand-over and a release make of a row, in the words of sections 8.1 to 8.4. -/

namespace Sys2Proof.Machine

/-! ### Positions and page lines -/

theorem ahead_iff (a b : Pos) : ahead a b = true ↔ ¬ notAhead a b := by
  simp only [ahead, notAhead, Bool.and_eq_true, decide_eq_true_eq]
  omega

theorem ahead_false_iff (a b : Pos) : ahead a b = false ↔ notAhead a b := by
  rw [← Bool.not_eq_true, ahead_iff, not_not]

theorem atOrBehind_iff (a b : Pos) : atOrBehind a b = true ↔ notAhead a b := by
  rw [atOrBehind, Bool.not_eq_true', ahead_false_iff]

theorem Stage.dropAt_eq (g : Stage) (x : Pos) : g.dropAt x = g.overtaken x := by
  cases g <;> simp only [Stage.dropAt, Stage.overtaken, atOrBehind_iff]

theorem later_eq (a b : Pos) : later a b = if notAhead a b then b else a := by
  simp only [later, ahead_iff, ite_not]

theorem Device.target_eq (d : Device) (p : PortIx) (r : RowIx) : d.target p r = nextTarget (d.pipe p r).latch (d.standing p r) := by
  unfold Device.target nextTarget
  split <;> simp only [later_eq, *]

theorem PageControl.pageLine_eq (pc : PageControl) (x : Pos) : pc.pageLine x = lineUnder pc.queue x := by
  unfold PageControl.pageLine lineUnder
  congr 1
  funext q
  cases eq : q.state <;> simp [PageRec.lineAt, PageRec.base, eq]

theorem TestMode.fetches_iff (m : TestMode) : m.fetches = true ↔ m = .normal ∨ m = .mute := by
  cases m <;> decide

/-! ### Targets -/

/-- Line data for a resolved target is awaited at a slot of its page line. -/
abbrev Slot.isFor (pl : PageLine) (k : Slot) : Bool := k.tag == pl.tag && k.line == pl.line

theorem Slot.page_beq (k : Slot) (pl : PageLine) : (k.page == pl) = k.isFor pl := by
  rw [Bool.eq_iff_iff]
  cases pl
  simp [Slot.page]

theorem Ring.find_eq (g : Ring) (pl : PageLine) : g.find pl = g.slots.findIdx? (Slot.isFor pl) := by
  unfold Ring.find
  congr 1
  funext k
  exact k.page_beq pl

/-- A slot of the page line is found where the ring holds one. -/
theorem Ring.find_some {g : Ring} {pl : PageLine} {k : Slot} (h : g.slots.find? (Slot.isFor pl) = some k) :
    ∃ i, g.find pl = some i ∧ g.slots[i]? = some k := by
  rw [Ring.find_eq]
  rw [List.find?_eq_some_iff_getElem] at h
  obtain ⟨isFor, i, low, at_i, before⟩ := h
  refine ⟨i, List.findIdx?_eq_some_iff_getElem.2 ⟨low, at_i ▸ isFor, fun j lt => by simpa [imp_iff_not_or] using before j lt⟩, ?_⟩
  rw [List.getElem?_eq_getElem low, at_i]

theorem Ring.find_none {g : Ring} {pl : PageLine} (h : g.slots.find? (Slot.isFor pl) = none) : g.find pl = none := by
  rw [Ring.find_eq, List.findIdx?_eq_none_iff]
  intro k mem
  simpa using List.find?_eq_none.1 h k mem

/-- A resolved target: a fetch of the landed slot, the wait for one, or a MISSING line. -/
theorem Ring.resolve_of_some {g : Ring} {pl : PageLine} {k : Slot} (pc : PageControl)
    (h : g.slots.find? (Slot.isFor pl) = some k) :
    ∃ i, g.find pl = some i ∧ g.slots[i]? = some k ∧ g.resolve pc pl = if k.state = .landed then .fetch i else .wait := by
  obtain ⟨i, found, at_i⟩ := Ring.find_some h
  refine ⟨i, found, at_i, ?_⟩
  simp only [Ring.resolve, found, at_i, Option.any_some, beq_iff_eq]

theorem Ring.resolve_of_none {g : Ring} {pl : PageLine} (pc : PageControl) (h : g.slots.find? (Slot.isFor pl) = none) :
    g.resolve pc pl = if g.slots.any (fun t => pc.before pl t.page) then .missing else .wait := by
  rw [Ring.resolve, Ring.find_none h]

/-! ### Filling a stage -/

/-- The fetch of row `r` of port `p` for the slot of page line `pl` is among the ones raised. -/
def Device.fetchRaised (d : Device) (p : PortIx) (r : RowIx) (g : Ring) (pl : PageLine) : Prop :=
  ∃ (f : Fetch) (i : Nat) (k : Slot), f ∈ d.ls.fetchRaised ∧ g.slots[i]? = some k ∧ k.tag = pl.tag ∧ k.line = pl.line ∧
    f = { port := p, row := r, tag := pl.tag, line := pl.line, len := g.blockBytes, live := true
          addr := g.base * 1048576 + (g.oldest + i) % g.capacity * g.slotBytes + r.val * g.blockBytes }

theorem mem_insertFetch (f x : Fetch) (l : List Fetch) : x ∈ insertFetch f l ↔ x = f ∨ x ∈ l := by
  induction l with
  | nil => simp [insertFetch]
  | cons y rest ih =>
    unfold insertFetch
    split
    · simp
    · simp only [List.mem_cons, ih]
      tauto

theorem Device.raiseFetch_raised (d : Device) (p : PortIx) (r : RowIx) (pl : PageLine) (g : Ring) {i : Nat} {k : Slot}
    (at_i : g.slots[i]? = some k) (isFor : k.isFor pl = true) : (d.raiseFetch p r pl g i).fetchRaised p r g pl := by
  simp only [Slot.isFor, Bool.and_eq_true, beq_iff_eq] at isFor
  exact ⟨_, i, k, (mem_insertFetch _ _ _).2 (.inl rfl), at_i, isFor.1, isFor.2, rfl⟩

theorem Device.fillStage_of_not (d : Device) (p : PortIx) (r : RowIx)
    (h : d.jobActive = false ∨ d.printing p r = false ∨ (d.pipe p r).stage ≠ .empty) : d.fillStage p r = d := by
  unfold Device.fillStage
  rw [if_neg]
  simp only [Bool.and_eq_true, beq_iff_eq]
  rintro ⟨⟨active, prints⟩, empty⟩
  rcases h with h | h | h
  · exact absurd active (by rw [h]; decide)
  · exact absurd prints (by rw [h]; decide)
  · exact h empty

/-- What a resolved target makes of the row, its stage EMPTY and its target mark none. -/
theorem Device.resolveFetch_pipe (d : Device) (p : PortIx) (r : RowIx) (mode : (d.head p).testMode.fetches = true)
    (empty : (d.pipe p r).stage = .empty) (plain : (d.pipe p r).missing = false) :
    (d.resolveFetch p r).pipe p r = { d.pipe p r with
      stage := (stageFor (d.head p) d.pc (d.ring p) (d.target p r)).1
      missing := (stageFor (d.head p) d.pc (d.ring p) (d.target p r)).2 } := by
  rw [TestMode.fetches_iff] at mode
  unfold Device.resolveFetch stageFor
  simp only [PageControl.pageLine_eq, mode, if_true]
  have same : d.pipe p r = { d.pipe p r with stage := .empty, missing := false } := by rw [← empty, ← plain]
  cases line : lineUnder d.pc.queue (d.target p r) with
  | none => exact same
  | some pl =>
    cases ring : d.ring p with
    | none => exact same
    | some g =>
      dsimp only
      cases found : g.slots.find? (Slot.isFor pl) with
      | none =>
        rw [Ring.resolve_of_none d.pc found]
        simp only [Slot.page]
        by_cases passed : g.slots.any (fun t => d.pc.before pl { tag := t.tag, line := t.line }) = true
        · simp only [passed, if_true, Device.pipe_modPipe_same, empty]
        · rw [Bool.not_eq_true] at passed
          simp only [passed, Bool.false_eq_true, if_false, Device.pipe_modPipe_same, plain]
      | some k =>
        obtain ⟨i, -, -, resolved⟩ := Ring.resolve_of_some d.pc found
        rw [resolved]
        by_cases landed : k.state = .landed
        · simp only [landed, if_true, plain.symm]
          exact Device.pipe_modPipe_same _ _ _ _
        · simp only [landed, if_false, plain.symm]
          exact Device.pipe_modPipe_same _ _ _ _

/-- The fetch of a resolved target is raised. -/
theorem Device.resolveFetch_raised (d : Device) (p : PortIx) (r : RowIx) (mode : (d.head p).testMode.fetches = true)
    {g : Ring} (ring : d.ring p = some g) {x : Pos} {pl : PageLine}
    (fetching : (stageFor (d.head p) d.pc (d.ring p) (d.target p r)).1 = .fetching x pl) :
    (d.resolveFetch p r).fetchRaised p r g pl := by
  rw [TestMode.fetches_iff] at mode
  unfold stageFor at fetching
  unfold Device.resolveFetch
  simp only [mode, if_true, ring] at fetching
  simp only [PageControl.pageLine_eq, ring]
  cases line : lineUnder d.pc.queue (d.target p r) with
  | none => simp [line] at fetching
  | some pl' =>
    simp only [line] at fetching
    cases found : g.slots.find? (Slot.isFor pl') with
    | none =>
      simp only [found] at fetching
      split at fetching <;> exact absurd fetching (by simp)
    | some k =>
      obtain ⟨i, -, at_i, resolved⟩ := Ring.resolve_of_some d.pc found
      simp only [found] at fetching
      by_cases landed : k.state = .landed
      · simp only [landed, if_true, Stage.fetching.injEq] at fetching
        obtain ⟨-, rfl⟩ := fetching
        simp only [resolved, landed, if_true]
        exact Device.raiseFetch_raised _ p r pl' g at_i (List.find?_some found)
      · simp [landed] at fetching

section Filling
variable (d : Device) (p : PortIx) (r : RowIx)

/-- A printing row of a running job has its EMPTY stage filled (R139). -/
theorem Device.fillStage_pipe (active : d.jobActive = true) (prints : d.printing p r = true) :
    (d.fillStage p r).pipe p r = (d.pipe p r).filled (d.head p) d.pc (d.ring p) (d.standing p r) := by
  unfold Pipeline.filled
  by_cases empty : (d.pipe p r).stage = .empty
  · rw [if_pos empty]
    unfold Device.fillStage
    simp only [active, prints, empty, beq_self_eq_true, Bool.and_self, if_true]
    have pipe := d.pipe_modPipe_same p r (fun q => { q with missing := false })
    have target : (d.modPipe p r (fun q => { q with missing := false })).target p r
        = nextTarget (d.pipe p r).latch (d.standing p r) := by rw [Device.target_eq, pipe]; rfl
    split
    · next mode =>
      rw [Device.resolveFetch_pipe _ p r mode (by rw [pipe]; exact empty) (by rw [pipe]), pipe, target]
      rfl
    · next mode =>
      have pattern : ¬ ((d.head p).testMode = .normal ∨ (d.head p).testMode = .mute) := by rwa [← TestMode.fetches_iff]
      rw [Device.pipe_modPipe_same, pipe, target]
      simp only [stageFor, pattern, if_false]
  · rw [if_neg empty, d.fillStage_of_not p r (.inr (.inr empty))]

theorem Device.fillStage_hp : (d.fillStage p r).hp = d.hp := by
  unfold Device.fillStage Device.resolveFetch
  split
  · dsimp only
    split
    · split
      · split <;> rfl
      · rfl
    · rfl
  · rfl

theorem Device.fillStage_port (q : PortIx) : (d.fillStage p r).port q = d.port q := by simp only [Device.port, d.fillStage_hp p r]

/-- The fetch of a stage that became FETCHING is raised. -/
theorem Device.fillStage_raised {g : Ring} (ring : d.ring p = some g) {x : Pos} {pl : PageLine} (empty : (d.pipe p r).stage = .empty)
    (fetching : ((d.fillStage p r).pipe p r).stage = .fetching x pl) : (d.fillStage p r).fetchRaised p r g pl := by
  by_cases runs : d.jobActive = true ∧ d.printing p r = true
  · obtain ⟨active, prints⟩ := runs
    rw [d.fillStage_pipe p r active prints, Pipeline.filled, if_pos empty] at fetching
    unfold Device.fillStage
    simp only [active, prints, empty, beq_self_eq_true, Bool.and_self, if_true]
    have target : (d.modPipe p r (fun q => { q with missing := false })).target p r
        = nextTarget (d.pipe p r).latch (d.standing p r) := by rw [Device.target_eq, Device.pipe_modPipe_same]; rfl
    by_cases mode : (d.head p).testMode.fetches = true
    · rw [if_pos (show ((d.modPipe p r (fun q => { q with missing := false })).head p).testMode.fetches = true from mode)]
      exact (d.modPipe p r (fun q => { q with missing := false })).resolveFetch_raised p r mode ring (by rw [target]; exact fetching)
    · have pattern : ¬ ((d.head p).testMode = .normal ∨ (d.head p).testMode = .mute) := by rwa [← TestMode.fetches_iff]
      simp [stageFor, pattern] at fetching
  · rw [d.fillStage_of_not p r (by
      rw [not_and_or, Bool.not_eq_true, Bool.not_eq_true] at runs
      exact runs.elim .inl fun x => .inr (.inl x)), empty] at fetching
    simp at fetching

end Filling

/-! ### Handing over -/

section Handing
variable (d : Device) (p : PortIx) (r : RowIx)

theorem Device.handOver_of_none (h : (d.pipe p r).toHand = none) : d.handOver p r = d := by
  unfold Device.handOver
  unfold Pipeline.toHand at h
  split
  · next stage latch => simp [stage, latch] at h
  · rfl

theorem Device.handOver_of_not_printing (h : d.printing p r = false) : d.handOver p r = d := by
  unfold Device.handOver
  split
  · rw [if_neg (by rw [h]; decide)]
  · rfl

/-- The port takes the line and the row's latch holds it. -/
def Device.handed (d : Device) (p : PortIx) (r : RowIx) (x : Pos × Option (List Nat)) : Device :=
  (d.modPort p (fun hp => hp.takeFrame (d.head p) r x.1 x.2)).modPipe p r (fun q => { q with stage := .empty, latch := .sending x.1 })

theorem Device.handOver_of_some {x : Pos × Option (List Nat)} (h : (d.pipe p r).toHand = some x) (prints : d.printing p r = true) :
    d.handOver p r = (d.handed p r x).fillStage p r := by
  unfold Device.handOver
  unfold Pipeline.toHand at h
  split
  · next stage latch =>
    simp only [stage, latch, Option.some.injEq] at h
    subst h
    rw [if_pos prints]
    rfl
  · next none_of =>
    split at h
    · next latch stage => exact absurd latch (none_of _ _ stage)
    · simp at h

theorem Device.handed_port (x : Pos × Option (List Nat)) : (d.handed p r x).port p = (d.port p).takeFrame (d.head p) r x.1 x.2 :=
  d.port_modPort_same p _

theorem Device.handed_pipe (x : Pos × Option (List Nat)) :
    (d.handed p r x).pipe p r = { d.pipe p r with stage := .empty, latch := .sending x.1 } :=
  Device.pipe_modPipe_same _ p r _

theorem Device.handed_printing (x : Pos × Option (List Nat)) : (d.handed p r x).printing p r = d.printing p r :=
  Device.printing_congr (a := d) (b := d.handed p r x) rfl (by rw [d.handed_port p r x, HeadPort.takeFrame_state]) r

/-- A printing row that hands a line over. -/
theorem Device.handOver_pipe_of_some {x : Pos × Option (List Nat)} (h : (d.pipe p r).toHand = some x) (prints : d.printing p r = true) :
    (d.handOver p r).pipe p r =
      let g : Pipeline := { d.pipe p r with stage := .empty, latch := .sending x.1 }
      if d.jobActive then g.filled (d.head p) d.pc (d.ring p) (d.standing p r) else g := by
  rw [d.handOver_of_some p r h prints]
  by_cases active : d.jobActive = true
  · rw [if_pos active, (d.handed p r x).fillStage_pipe p r active (by rw [d.handed_printing p r x, prints]), d.handed_pipe p r x]
    rfl
  · rw [if_neg active, Device.fillStage_of_not _ p r (.inl (by rw [← Bool.not_eq_true]; exact active)), d.handed_pipe p r x]

theorem Device.handOver_port (h : d.printing p r = true) :
    (d.handOver p r).port p = match (d.pipe p r).toHand with
      | some x => (d.port p).takeFrame (d.head p) r x.1 x.2
      | none => d.port p := by
  cases hand : (d.pipe p r).toHand with
  | none => rw [d.handOver_of_none p r hand]
  | some x => rw [d.handOver_of_some p r hand h, Device.fillStage_port, Device.handed_port]

theorem Device.handOver_state (q : PortIx) : ((d.handOver p r).port q).state = (d.port q).state := by
  by_cases eq : q = p
  · subst eq
    cases prints : d.printing q r with
    | false => rw [d.handOver_of_not_printing q r prints]
    | true =>
      rw [d.handOver_port q r prints]
      split
      · exact HeadPort.takeFrame_state _ _ _ _ _
      · rfl
  · rw [(d.localTo_handOver (R := fun _ => True) trivial).port q eq]

/-! ### Making a row ready -/

theorem Device.fillStage_printing : (d.fillStage p r).printing p r = d.printing p r :=
  Device.printing_congr (d.localTo_fillStage (R := fun _ => True) trivial).tab (by rw [Device.fillStage_port]) r

theorem Device.fillStage_jobActive : (d.fillStage p r).jobActive = d.jobActive :=
  (d.localTo_fillStage (R := fun _ => True) trivial).jobActive

theorem Device.prepare_of_not_printing (h : d.printing p r = false) : d.prepare p r = d := by
  rw [Device.prepare, d.fillStage_of_not p r (.inr (.inl h)), d.handOver_of_not_printing p r h]

/-- A printing row of a running job is made ready (R139, R143). -/
theorem Device.prepare_pipe (active : d.jobActive = true) (prints : d.printing p r = true) :
    (d.prepare p r).pipe p r = (d.pipe p r).prepared (d.head p) d.pc (d.ring p) (d.standing p r) := by
  have local_ := d.localTo_fillStage (p := p) (r := r) (R := fun _ => True) trivial
  have filled := d.fillStage_pipe p r active prints
  rw [Device.prepare, Pipeline.prepared]
  cases hand : ((d.pipe p r).filled (d.head p) d.pc (d.ring p) (d.standing p r)).toHand with
  | none => rw [Device.handOver_of_none _ p r (by rw [filled, hand]), filled]
  | some x =>
    rw [Device.handOver_pipe_of_some _ p r (by rw [filled, hand]) (by rw [Device.fillStage_printing]; exact prints), filled,
      Device.fillStage_jobActive, if_pos active, local_.head, local_.ring, local_.standing, local_.pc]

theorem Device.prepare_port (active : d.jobActive = true) (prints : d.printing p r = true) :
    (d.prepare p r).port p = match ((d.pipe p r).filled (d.head p) d.pc (d.ring p) (d.standing p r)).toHand with
      | some x => (d.port p).takeFrame (d.head p) r x.1 x.2
      | none => d.port p := by
  have local_ := d.localTo_fillStage (p := p) (r := r) (R := fun _ => True) trivial
  rw [Device.prepare, Device.handOver_port _ p r (by rw [Device.fillStage_printing]; exact prints),
    d.fillStage_pipe p r active prints, Device.fillStage_port, local_.head]

theorem Device.prepare_state (q : PortIx) : ((d.prepare p r).port q).state = (d.port q).state := by
  rw [Device.prepare, Device.handOver_state, Device.fillStage_port]

end Handing

end Sys2Proof.Machine
end

section
/-! PROOFS. What a WRITE of a port's words does to the port and its rows, and that WRITE keeps maps, registers and resting rows. -/

namespace Sys2Proof.Machine

/-- What the start has and every step keeps, the end of a fold has. -/
theorem foldl_keeps {α β : Type} {Q : α → Prop} (f : α → β → α) (l : List β) (step : ∀ e x, Q e → Q (f e x)) (d : α) (start : Q d) :
    Q (l.foldl f d) := by
  induction l generalizing d with
  | nil => exact start
  | cons x l ih => exact ih _ (step d x start)

/-! ### Rows that a WRITE's effects find passing -/

/-- With the same tables, port `p` in the same state, and row `r` of it as before. -/
structure Device.RowKept (p : PortIx) (r : RowIx) (a b : Device) : Prop where
  tab : b.tab = a.tab
  state : (b.port p).state = (a.port p).state
  pipe : b.pipe p r = a.pipe p r

namespace Device.RowKept
variable {p : PortIx} {r : RowIx} {a b c : Device}

theorem refl (a : Device) : a.RowKept p r a := ⟨rfl, rfl, rfl⟩

theorem trans (h : a.RowKept p r b) (k : b.RowKept p r c) : a.RowKept p r c :=
  ⟨k.tab.trans h.tab, k.state.trans h.state, k.pipe.trans h.pipe⟩

theorem printing (h : a.RowKept p r b) : b.printing p r = a.printing p r := Device.printing_congr h.tab h.state r

end Device.RowKept

section Passing
variable (d : Device) (p : PortIx) (r : RowIx)

theorem Device.raiseToken_state (q : PortIx) (t : Token) : ((d.raiseToken p t).port q).state = (d.port q).state := by
  unfold Device.raiseToken
  split
  · rw [Device.port_modPort]
    split <;> rfl
  · rfl

theorem Device.restartTickle_state (q : PortIx) : ((d.restartTickle p).port q).state = (d.port q).state := by
  unfold Device.restartTickle
  split
  · rw [Device.port_modPort]
    split <;> rfl
  · rfl

theorem Device.fire_state (q : PortIx) : ((d.fire p r).port q).state = (d.port q).state := by
  rw [Device.fire, Device.restartTickle_state]
  exact d.raiseToken_state p q _

theorem Device.releaseHold_state (q : PortIx) : ((d.releaseHold p r).port q).state = (d.port q).state := by
  rw [Device.releaseHold, Device.handOver_state, Device.fire_state]

theorem Device.rowModeChanged_of_not_printing (h : d.printing p r = false) : d.rowModeChanged p r = d := by
  rw [Device.rowModeChanged, if_neg]
  simp [h]

theorem Device.rowModeChanged_state (q : PortIx) : ((d.rowModeChanged p r).port q).state = (d.port q).state := by
  unfold Device.rowModeChanged
  split
  · exact Device.prepare_state _ p r q
  · rfl

/-- Another row's step leaves the row. -/
theorem Device.LocalTo.rowKept {a b : Device} {p : PortIx} {r s : RowIx} (h : a.LocalTo p (· = s) b)
    (state : (b.port p).state = (a.port p).state) (ne : r ≠ s) : a.RowKept p r b :=
  ⟨h.tab, state, h.pipe p r fun is => ne is.2⟩

/-- A change of test mode leaves a row that does not print. -/
theorem Device.afterTestMode_rowKept (old : TestMode) (h : d.printing p r = false) : d.RowKept p r (d.afterTestMode p old) := by
  have seeded : d.RowKept p r (if (d.head p).testMode = .prbs ∧ old ≠ .prbs then
      d.modPort p (fun hp => { hp with prbs := .replicate 4 (BitVec.allOnes 15) }) else d) := by
    split
    · exact ⟨rfl, by rw [Device.port_modPort_same], rfl⟩
    · exact .refl d
  unfold Device.afterTestMode
  dsimp only
  split
  · exact seeded
  · refine foldl_keeps (Q := d.RowKept p r) _ allRows (fun e s kept => kept.trans ?_) _ seeded
    by_cases eq : r = s
    · subst eq
      rw [e.rowModeChanged_of_not_printing p r (kept.printing.trans h)]
      exact .refl e
    · exact (e.localTo_rowModeChanged (R := (· = s)) rfl).rowKept (e.rowModeChanged_state p s p) eq

/-- A settle time leaves a row without a hold. -/
theorem Device.afterSettle_rowKept (h : (d.pipe p r).hold = none) : d.RowKept p r (d.afterSettle p) := by
  refine foldl_keeps (Q := d.RowKept p r) _ allRows (fun e s kept => kept.trans ?_) _ (.refl d)
  by_cases eq : r = s
  · subst eq
    have due : e.holdDue p r = false := by rw [Device.holdDue, kept.pipe, h]; rfl
    simp only [due, Bool.false_eq_true, if_false]
    exact .refl e
  · split
    · exact (e.localTo_releaseHold (R := (· = s)) rfl).rowKept (e.releaseHold_state p s p) eq
    · exact .refl e

theorem Device.restartTickle_rowKept : d.RowKept p r (d.restartTickle p) :=
  ⟨(d.localTo_restartTickle (p := p) (R := fun _ => True)).tab, d.restartTickle_state p p, by
    unfold Device.restartTickle
    split <;> rfl⟩

end Passing

/-! ### Rows at rest -/

/-- The rows of port `p` that do not print are at rest. -/
def Device.restAt (d : Device) (p : PortIx) : Prop := ∀ r, d.printing p r = false → (d.pipe p r).atRest

theorem Device.passingAtRest_iff (d : Device) : d.passingAtRest ↔ ∀ p, d.restAt p := by
  simp only [Device.passingAtRest, Device.restAt, Device.not_printing_iff]

theorem Device.restAt_of_rowKept {a b : Device} {p : PortIx} (rest : a.restAt p)
    (kept : ∀ r, a.printing p r = false → (a.pipe p r).hold = none → a.RowKept p r b)
    (printing : ∀ r, b.printing p r = a.printing p r) : b.restAt p := by
  intro r passing
  rw [printing r] at passing
  have atRest := rest r passing
  rw [(kept r passing atRest.2.2).pipe]
  exact atRest

section Rest
variable (d : Device) (p : PortIx)

theorem Device.quenchPort_pipe_of_ready (st : PortState) (ready : (d.port p).state = .ready) (r : RowIx) :
    (d.quenchPort p st).pipe p r = (d.pipe p r).leaveReady := by
  rw [Device.quenchPort, if_pos ready]
  exact (Device.rowsLeaveReady_pipe _ p p r).trans (if_pos rfl)

theorem Device.quenchPort_pipe_of_not_ready (st : PortState) (ready : (d.port p).state ≠ .ready) (r : RowIx) :
    (d.quenchPort p st).pipe p r = d.pipe p r := by
  rw [Device.quenchPort, if_neg ready]
  rfl

theorem Device.quenchPort_port (st : PortState) : (d.quenchPort p st).port p = (d.port p).quench st := by
  unfold Device.quenchPort
  dsimp only
  split
  · exact d.port_modPort_same p _
  · exact d.port_modPort_same p _

/-- The rows of a port whose state is not READY are at rest through a WRITE of its enabled word, and all of them once it is disabled. -/
theorem Device.afterEnabled_atRest (rest : (d.port p).state ≠ .ready → ∀ r, (d.pipe p r).atRest)
    (off : ((d.afterEnabled p).port p).state ≠ .ready ∨ (d.head p).enabled = false) (r : RowIx) :
    ((d.afterEnabled p).pipe p r).atRest := by
  unfold Device.afterEnabled at off ⊢
  by_cases on : (d.head p).enabled = true
  · simp only [on, if_true, Bool.true_eq_false, or_false] at off ⊢
    by_cases disabled : (d.port p).state = .disabled
    · rw [if_pos disabled]
      exact rest (by rw [disabled]; decide) r
    · rw [if_neg disabled] at off ⊢
      exact rest off r
  · simp only [on, Bool.false_eq_true, if_false]
    by_cases disabled : (d.port p).state = .disabled
    · rw [if_pos disabled]
      exact rest (by rw [disabled]; decide) r
    · rw [if_neg disabled]
      by_cases ready : (d.port p).state = .ready
      · rw [d.quenchPort_pipe_of_ready p _ ready]
        exact Pipeline.leaveReady_atRest _
      · rw [d.quenchPort_pipe_of_not_ready p _ ready]
        exact rest ready r

theorem Device.clearIfDisabled_pipe (r s : RowIx) :
    (d.clearIfDisabled p r).pipe p s = if s = r ∧ d.rowEnabled p r = false then (d.pipe p s).leaveReady else d.pipe p s := by
  unfold Device.clearIfDisabled
  cases on : d.rowEnabled p r with
  | true => simp
  | false => simp [Device.pipe_modPipe]

theorem Device.clearDisabledRows_hp : (d.clearDisabledRows p).hp = d.hp := by
  refine foldl_keeps (Q := fun e => e.hp = d.hp) _ allRows (fun e r same => ?_) d rfl
  unfold Device.clearIfDisabled
  split
  · exact same
  · exact same

/-- The row count was written: a row it leaves not enabled is emptied, the others stay. -/
theorem Device.clearDisabledRows_pipe (r : RowIx) :
    (d.clearDisabledRows p).pipe p r = if d.rowEnabled p r then d.pipe p r else (d.pipe p r).leaveReady := by
  have step : ∀ l : List RowIx, ∀ e : Device, e.tab = d.tab →
      (l.foldl (fun e s => e.clearIfDisabled p s) e).pipe p r =
        if r ∈ l ∧ d.rowEnabled p r = false then (e.pipe p r).leaveReady else e.pipe p r := by
    intro l
    induction l with
    | nil => intro e _; simp
    | cons s l ih =>
      intro e tab
      have same : (e.clearIfDisabled p s).tab = d.tab := by
        rw [(e.localTo_clearIfDisabled (R := fun _ => True) trivial).tab, tab]
      rw [List.foldl_cons, ih _ same, Device.clearIfDisabled_pipe, Device.rowEnabled_congr tab]
      have idem : ∀ q : Pipeline, q.leaveReady.leaveReady = q.leaveReady := fun _ => rfl
      by_cases eq : r = s
      · subst eq
        cases d.rowEnabled p r <;> simp [idem]
      · simp [eq]
  rw [Device.clearDisabledRows, step allRows d rfl]
  cases d.rowEnabled p r <;> simp

end Rest

section Writes
variable (d : Device) (o : OrderParcel) (old : Tables) (p : PortIx)

/-- An effect that leaves the rows that do not print, and the printing of all, keeps them at rest. -/
theorem Device.restAt_ite {P : Prop} [Decidable P] (f : Device → Device) (rest : d.restAt p)
    (kept : ∀ r, d.printing p r = false → (d.pipe p r).hold = none → d.RowKept p r (f d))
    (printing : ∀ r, (f d).printing p r = d.printing p r) : (if P then f d else d).restAt p := by
  split
  · exact Device.restAt_of_rowKept rest kept printing
  · exact rest

theorem Device.afterTestMode_state (m : TestMode) : ((d.afterTestMode p m).port p).state = (d.port p).state := by
  have seeded : ((if (d.head p).testMode = .prbs ∧ m ≠ .prbs then
      d.modPort p (fun hp => { hp with prbs := .replicate 4 (BitVec.allOnes 15) }) else d).port p).state = (d.port p).state := by
    split
    · rw [Device.port_modPort_same]
    · rfl
  unfold Device.afterTestMode
  dsimp only
  split
  · exact seeded
  · exact foldl_keeps (Q := fun e : Device => (e.port p).state = (d.port p).state) _ allRows
      (fun e r same => (e.rowModeChanged_state p r p).trans same) _ seeded

theorem Device.afterSettle_state : ((d.afterSettle p).port p).state = (d.port p).state := by
  refine foldl_keeps (Q := fun e : Device => (e.port p).state = (d.port p).state) _ allRows (fun e r same => ?_) _ rfl
  split
  · exact (e.releaseHold_state p r p).trans same
  · exact same

theorem Device.leaveReady_restAt (st : PortState) : (d.leaveReady p st).restAt p := by
  intro r _
  rw [Device.leaveReady, Device.rowsLeaveReady_pipe, if_pos rfl]
  exact Pipeline.leaveReady_atRest _

theorem Device.afterPort_restAt (rest : (d.port p).state ≠ .ready → ∀ r, (d.pipe p r).atRest)
    (rows : ∀ r, d.rowEnabled p r = false → (d.pipe p r).atRest ∨
      (o.writes 2 (16 * p.val) = true ∧ (d.head p).enabled = false) ∨ o.writes 2 (16 * p.val + 3) = true) :
    (d.afterPort o old p).restAt p := by
  unfold Device.afterPort
  extract_lets e1 e2 e3 e4 e5
  have passing1 : ((e1.port p).state ≠ .ready → ∀ r, (e1.pipe p r).atRest) ∧
      ∀ r, e1.rowEnabled p r = false → (e1.pipe p r).atRest ∨ o.writes 2 (16 * p.val + 3) = true := by
    by_cases written : o.writes 2 (16 * p.val) = true
    · have eq : e1 = d.afterEnabled p := if_pos written
      rw [eq]
      have tab := (d.localTo_afterEnabled (p := p)).tab
      refine ⟨fun off r => d.afterEnabled_atRest p rest (.inl off) r, fun r passing => ?_⟩
      rw [Device.rowEnabled_congr tab] at passing
      by_cases on : (d.head p).enabled = true
      · rcases rows r passing with atRest | off | counted
        · left
          unfold Device.afterEnabled
          rw [if_pos on]
          split <;> exact atRest
        · exact absurd off.2 (by rw [on]; decide)
        · exact .inr counted
      · exact .inl (d.afterEnabled_atRest p rest (.inr (by simpa using on)) r)
    · have eq : e1 = d := if_neg written
      rw [eq]
      exact ⟨rest, fun r passing => (rows r passing).imp_right fun x => x.resolve_left fun y => written y.1⟩
  have rest2 : e2.restAt p := by
    intro r passing
    rw [Device.not_printing_iff] at passing
    by_cases counted : o.writes 2 (16 * p.val + 3) = true
    · have eq : e2 = e1.clearDisabledRows p := if_pos counted
      rw [eq] at passing ⊢
      rw [Device.clearDisabledRows_pipe]
      split
      · next on =>
        rw [Device.rowEnabled_congr (e1.localTo_clearDisabledRows (p := p)).tab, on] at passing
        refine passing1.1 ?_ r
        simpa only [Device.port, Device.clearDisabledRows_hp, Bool.true_eq_false, false_or] using passing
      · exact Pipeline.leaveReady_atRest _
    · have eq : e2 = e1 := if_neg counted
      rw [eq] at passing ⊢
      rcases passing with off | off
      · exact (passing1.2 r off).resolve_right counted
      · exact passing1.1 off r
  have rest3 : e3.restAt p := e2.restAt_ite p (fun e => e.afterTestMode p (vget old.heads p).testMode) rest2
    (fun r passing _ => e2.afterTestMode_rowKept p r _ passing)
    fun r => Device.printing_congr (e2.localTo_afterTestMode _).tab (e2.afterTestMode_state p _) r
  have rest4 : e4.restAt p := e3.restAt_ite p (fun e => e.afterSettle p) rest3
    (fun r _ free => e3.afterSettle_rowKept p r free)
    fun r => Device.printing_congr e3.localTo_afterSettle.tab (e3.afterSettle_state p) r
  have rest5 : e5.restAt p := e4.restAt_ite p (fun e => e.restartTickle p) rest4
    (fun r _ _ => e4.restartTickle_rowKept p r) fun r => (e4.restartTickle_rowKept p r).printing
  split
  · exact e5.leaveReady_restAt p _
  · exact rest5

end Writes

/-! ### All ports of a WRITE -/

/-- `b` follows from `a` by changes of rows, ports, head counters and row fetches alone, none of them at port `p`. -/
structure Device.SameAt (p : PortIx) (a b : Device) : Prop where
  same : b = { a with
    ou := { a.ou with headCounts := b.ou.headCounts }
    ls := { a.ls with fetchQ := b.ls.fetchQ, fetchRaised := b.ls.fetchRaised, service := b.ls.service }
    rf := b.rf
    hp := b.hp }
  port : b.port p = a.port p
  pipe : ∀ r, b.pipe p r = a.pipe p r
  headCounter : ∀ c, b.headCounter p c = a.headCounter p c

theorem Device.SameAt.refl (p : PortIx) (a : Device) : a.SameAt p a := ⟨rfl, rfl, fun _ => rfl, fun _ => rfl⟩

theorem Device.SameAt.trans {p : PortIx} {a b c : Device} (h : a.SameAt p b) (k : b.SameAt p c) : a.SameAt p c :=
  ⟨by rw [k.same, h.same], k.port.trans h.port, fun r => (k.pipe r).trans (h.pipe r),
    fun x => (k.headCounter x).trans (h.headCounter x)⟩

theorem Device.LocalTo.sameAt {p q : PortIx} {R : RowIx → Prop} {a b : Device} (h : a.LocalTo q R b) (ne : p ≠ q) : a.SameAt p b :=
  ⟨h.same, h.port p ne, fun r => h.pipe p r fun is => ne is.1, fun c => h.headCounter p c ne⟩

theorem Device.SameAt.tab {p : PortIx} {a b : Device} (h : a.SameAt p b) : b.tab = a.tab := by rw [h.same]

theorem Device.SameAt.restAt {p : PortIx} {a b : Device} (h : a.SameAt p b) (rest : a.restAt p) : b.restAt p := by
  intro r passing
  rw [Device.printing_congr h.tab (by rw [h.port])] at passing
  rw [h.pipe]
  exact rest r passing

/-- In a fold over different places, the step of one place stands between steps that keep to the others. -/
theorem foldl_split {α β : Type} {S : α → α → Prop} (refl : ∀ a, S a a) (trans : ∀ {a b c}, S a b → S b c → S a c)
    (f : α → β → α) (x : β) (step : ∀ e y, x ≠ y → S e (f e y)) (l : List β) (nodup : l.Nodup) (mem : x ∈ l) (d : α) :
    ∃ e, S d e ∧ S (f e x) (l.foldl f d) := by
  induction l generalizing d with
  | nil => simp at mem
  | cons y l ih =>
    rw [List.nodup_cons] at nodup
    by_cases eq : x = y
    · subst eq
      have others : ∀ l : List β, x ∉ l → ∀ e, S e (l.foldl f e) := by
        intro l
        induction l with
        | nil => intro _ e; exact refl e
        | cons z l ih =>
          intro out e
          rw [List.mem_cons, not_or] at out
          exact trans (step e z out.1) (ih out.2 _)
      exact ⟨d, refl d, others l nodup.1 _⟩
    · obtain ⟨e, before, after⟩ := ih nodup.2 ((List.mem_cons.1 mem).resolve_left eq) (f d y)
      exact ⟨e, trans (step d y eq) before, after⟩

section Whole
variable (d : Device) (o : OrderParcel)

/-- The device once the words are stored and the device's own effects done, before the ports'. -/
def Device.wordsWritten (d : Device) (o : OrderParcel) : Device :=
  let x := d.storeWords o.table o.start o.data
  let e := if x.2 then x.1.clamped else x.1
  if o.writes 1 2 then e.afterFilter d.tab.job.filter else e

theorem Device.applyWrite_eq : d.applyWrite o = allPorts.foldl (fun e p => e.afterPort o d.tab p) (d.wordsWritten o) := rfl

/-- The words stored change tables and masks, the CLAMPED_WRITE flag and counter, and the filter setting in force. -/
theorem Device.wordsWritten_same : d.wordsWritten o = { d with
    tab := (d.storeWords o.table o.start o.data).1.tab
    pu := { d.pu with filterOld := (d.wordsWritten o).pu.filterOld }
    ou := { d.ou with
      devMask := (d.storeWords o.table o.start o.data).1.ou.devMask
      headMasks := (d.storeWords o.table o.start o.data).1.ou.headMasks
      devEvents := (d.wordsWritten o).ou.devEvents
      devCounts := (d.wordsWritten o).ou.devCounts } } := by
  have stored := d.storeWords_same o.table o.start o.data
  unfold Device.wordsWritten
  dsimp only
  generalize d.storeWords o.table o.start o.data = x at stored ⊢
  obtain ⟨e, clamped⟩ := x
  dsimp only at stored ⊢
  rw [stored]
  cases clamped <;> simp only [Bool.false_eq_true, if_false, if_true] <;> split <;> rfl

/-- A port's part of a WRITE, the other ports' parts before and after it. -/
theorem Device.applyWrite_split (p : PortIx) :
    ∃ e, (d.wordsWritten o).SameAt p e ∧ (e.afterPort o d.tab p).SameAt p (d.applyWrite o) := by
  rw [Device.applyWrite_eq]
  exact foldl_split (Device.SameAt.refl p) Device.SameAt.trans (fun (e : Device) q => e.afterPort o d.tab q) p
    (fun e q ne => (e.localTo_afterPort o d.tab (p := q)).sameAt ne) allPorts allPorts_nodup (mem_allPorts p) _

theorem Device.wordsWritten_port (p : PortIx) : (d.wordsWritten o).port p = d.port p := by
  rw [Device.wordsWritten_same]; rfl

theorem Device.wordsWritten_pipe (p : PortIx) (r : RowIx) : (d.wordsWritten o).pipe p r = d.pipe p r := by
  rw [Device.wordsWritten_same]; rfl

theorem Device.wordsWritten_tab : (d.wordsWritten o).tab = (d.storeWords o.table o.start o.data).1.tab := by
  rw [Device.wordsWritten_same]

theorem Device.wordsWritten_head (p : PortIx) : (d.wordsWritten o).head p = (d.storeWords o.table o.start o.data).1.head p := by
  rw [Device.head, Device.wordsWritten_tab, Device.head]

/-- A WRITE leaves rows that do not print at rest. -/
theorem Device.applyWrite_passingAtRest (fits : o.table = 2 → o.start + o.data.length ≤ 256) (rest : d.passingAtRest) :
    (d.applyWrite o).passingAtRest := by
  rw [Device.passingAtRest_iff] at rest ⊢
  intro p
  obtain ⟨e, before, after⟩ := d.applyWrite_split o p
  have tab : e.tab = (d.wordsWritten o).tab := before.tab
  have head : e.head p = (d.wordsWritten o).head p := by rw [Device.head, tab, Device.head]
  have pipe : ∀ r, e.pipe p r = d.pipe p r := fun r => (before.pipe r).trans (d.wordsWritten_pipe o p r)
  have port : e.port p = d.port p := before.port.trans (d.wordsWritten_port o p)
  refine after.restAt (e.afterPort_restAt o d.tab p ?_ ?_)
  · intro off r
    rw [pipe]
    rw [port] at off
    exact rest p r ((d.not_printing_iff p r).2 (.inr off))
  · intro r passing
    rw [Device.rowEnabled, head, Device.wordsWritten_head] at passing
    rw [pipe, head, Device.wordsWritten_head]
    by_cases counted : o.writes 2 (16 * p.val + 3) = true
    · exact .inr (.inr counted)
    rw [Bool.not_eq_true] at counted
    have rowCount := Device.storeWords_head (·.rowCount) 3 (by decide) (fun h i w ne => h.store_rowCount i w ne) d o p fits counted
    by_cases written : o.writes 2 (16 * p.val) = true
    · by_cases on : ((d.storeWords o.table o.start o.data).1.head p).enabled = true
      · left
        rw [rowCount, on, Bool.true_and] at passing
        exact rest p r ((d.not_printing_iff p r).2 (.inl (by rw [Device.rowEnabled, passing, Bool.and_false])))
      · exact .inr (.inl ⟨written, by simpa using on⟩)
    · left
      rw [Bool.not_eq_true] at written
      have enabled := Device.storeWords_head (·.enabled) 0 (by decide) (fun h i w ne => h.store_enabled i w ne) d o p fits written
      rw [enabled, rowCount] at passing
      exact rest p r ((d.not_printing_iff p r).2 (.inl passing))

end Whole

end Sys2Proof.Machine
end

section
/-! PROOFS. WRITE keeps maps, registers and resting rows, and with it every step. -/

namespace Sys2Proof.Machine

/-! ### A port's part of a WRITE, quiet and with its ages in order -/

section Effects
variable (d : Device) (p : PortIx)

theorem Device.quiet_ite {a b c : Device} {P : Prop} [Decidable P] (h : a.Quiet b) (k : a.Quiet c) : a.Quiet (if P then b else c) := by
  split
  · exact h
  · exact k

theorem Device.orderly_ite {a b c : Device} {P : Prop} [Decidable P] (h : a.Orderly b) (k : a.Orderly c) :
    a.Orderly (if P then b else c) := by
  split
  · exact h
  · exact k

theorem Device.quiet_afterEnabled : d.Quiet (d.afterEnabled p) :=
  Device.quiet_ite (Device.quiet_ite (d.quiet_modPort p _ fun _ => rfl) (.refl d)) (Device.quiet_ite (.refl d) (d.quiet_quenchPort p _))

theorem Device.orderly_afterEnabled : d.Orderly (d.afterEnabled p) := by
  unfold Device.afterEnabled
  split
  · split
    · next disabled => exact d.orderly_modPort_waiting p _ (fun _ => rfl) (by simp [disabled])
    · exact .refl d
  · exact Device.orderly_ite (.refl d) (d.orderly_quenchPort p _)

theorem Device.orderly_clearDisabledRows : d.Orderly (d.clearDisabledRows p) :=
  .foldl _ (fun e r => Device.orderly_ite (.refl e) (e.orderly_modPipe p r _ (.inr fun _ => Pipeline.leaveReady_atRest _))) _ d

theorem Device.quiet_afterTestMode (m : TestMode) : d.Quiet (d.afterTestMode p m) := by
  have seeded : d.Quiet (if (d.head p).testMode = .prbs ∧ m ≠ .prbs then
      d.modPort p (fun hp => { hp with prbs := .replicate 4 (BitVec.allOnes 15) }) else d) :=
    Device.quiet_ite (d.quiet_modPort p _ fun _ => rfl) (.refl d)
  exact Device.quiet_ite seeded (seeded.trans (.foldl _ (fun e r => e.quiet_rowModeChanged p r) _ _))

theorem Device.orderly_afterTestMode (m : TestMode) : d.Orderly (d.afterTestMode p m) := by
  have seeded : d.Orderly (if (d.head p).testMode = .prbs ∧ m ≠ .prbs then
      d.modPort p (fun hp => { hp with prbs := .replicate 4 (BitVec.allOnes 15) }) else d) :=
    Device.orderly_ite (d.orderly_modPort_same p _ (fun _ => rfl) fun _ => rfl) (.refl d)
  exact Device.orderly_ite seeded (seeded.trans (.foldl _ (fun e r => e.orderly_rowModeChanged p r) _ _))

theorem Device.quiet_afterSettle : d.Quiet (d.afterSettle p) :=
  .foldl _ (fun e r => Device.quiet_ite (e.quiet_releaseHold p r) (.refl e)) _ d

theorem Device.orderly_afterSettle : d.Orderly (d.afterSettle p) :=
  .foldl _ (fun e r => Device.orderly_ite (e.orderly_releaseHold p r) (.refl e)) _ d

theorem Device.quiet_afterPort (o : OrderParcel) (old : Tables) : d.Quiet (d.afterPort o old p) := by
  unfold Device.afterPort
  extract_lets e1 e2 e3 e4 e5
  have q1 : d.Quiet e1 := Device.quiet_ite (d.quiet_afterEnabled p) (.refl d)
  have q2 : d.Quiet e2 := q1.trans (Device.quiet_ite (e1.quiet_clearDisabledRows p) (.refl e1))
  have q3 : d.Quiet e3 := q2.trans (Device.quiet_ite (e2.quiet_afterTestMode p _) (.refl e2))
  have q4 : d.Quiet e4 := q3.trans (Device.quiet_ite (e3.quiet_afterSettle p) (.refl e3))
  have q5 : d.Quiet e5 := q4.trans (Device.quiet_ite (e4.quiet_restartTickle p) (.refl e4))
  exact q5.trans (Device.quiet_ite (e5.quiet_leaveReady p _) (.refl e5))

theorem Device.orderly_afterPort (o : OrderParcel) (old : Tables) : d.Orderly (d.afterPort o old p) := by
  unfold Device.afterPort
  extract_lets e1 e2 e3 e4 e5
  have q1 : d.Orderly e1 := Device.orderly_ite (d.orderly_afterEnabled p) (.refl d)
  have q2 : d.Orderly e2 := q1.trans (Device.orderly_ite (e1.orderly_clearDisabledRows p) (.refl e1))
  have q3 : d.Orderly e3 := q2.trans (Device.orderly_ite (e2.orderly_afterTestMode p _) (.refl e2))
  have q4 : d.Orderly e4 := q3.trans (Device.orderly_ite (e3.orderly_afterSettle p) (.refl e3))
  have q5 : d.Orderly e5 := q4.trans (Device.orderly_ite (e4.orderly_restartTickle p) (.refl e4))
  exact q5.trans (Device.orderly_ite (e5.orderly_leaveReady p _) (.refl e5))

end Effects

/-! ### The whole WRITE -/

section Whole
variable (d : Device) (o : OrderParcel)

theorem Device.quiet_portEffects (old : Tables) : d.Quiet (allPorts.foldl (fun e p => e.afterPort o old p) d) :=
  .foldl (fun (e : Device) p => e.afterPort o old p) (fun e p => e.quiet_afterPort p o old) _ d

theorem Device.orderly_portEffects (old : Tables) : d.Orderly (allPorts.foldl (fun e p => e.afterPort o old p) d) :=
  .foldl (fun (e : Device) p => e.afterPort o old p) (fun e p => e.orderly_afterPort p o old) _ d

theorem Device.mapsRise_applyWrite (h : d.mapsRise) : (d.applyWrite o).mapsRise := by
  obtain ⟨wf, dither, ports⟩ := h
  have stored := Device.storeWords_tab (P := Tables.MapsRise) Tables.store_mapsRise d o.table o.start o.data
    ⟨dither, fun p => (ports p).1⟩
  have quiet := (d.wordsWritten o).quiet_portEffects o d.tab
  have ages := ((d.wordsWritten o).orderly_portEffects o d.tab).ages fun p => by rw [Device.wordsWritten_port]; exact (ports p).2
  rw [← Device.applyWrite_eq] at quiet ages
  have mem : (d.applyWrite o).mem = d.mem := by rw [quiet.mem, Device.wordsWritten_same]
  have tab : (d.applyWrite o).tab = (d.storeWords o.table o.start o.data).1.tab := by rw [quiet.tab, Device.wordsWritten_tab]
  rw [Device.mapsRise, mem, tab]
  exact ⟨wf, stored.dither, fun p => ⟨stored.nozzles p, ages p⟩⟩

theorem Device.inRange_applyWrite (h : d.inRange) : (d.applyWrite o).inRange := by
  obtain ⟨legal, ⟨phase, debt, ratio, fine⟩, silent⟩ := h
  have stored := Device.storeWords_tab (P := Tables.InRange) Tables.store_inRange d o.table o.start o.data ⟨ratio, fine⟩
  have quiet := (d.wordsWritten o).quiet_portEffects o d.tab
  rw [← Device.applyWrite_eq] at quiet
  have tab : (d.applyWrite o).tab = (d.storeWords o.table o.start o.data).1.tab := by rw [quiet.tab, Device.wordsWritten_tab]
  have cp : (d.applyWrite o).cp = d.cp := by rw [quiet.cp, Device.wordsWritten_same]
  have phaseKept : (d.applyWrite o).pu.phase = d.pu.phase := by rw [quiet.phase, Device.wordsWritten_same]
  have debtKept : (d.applyWrite o).pu.debt = d.pu.debt := by rw [quiet.debt, Device.wordsWritten_same]
  refine ⟨by rw [Device.chainIdLegal, cp]; exact legal, ?_, fun p => ?_⟩
  · rw [Device.webInRange, tab, phaseKept, debtKept]
    exact ⟨phase, debt, stored.pitchRatio, stored.fine⟩
  · rw [quiet.silent, Device.wordsWritten_port]
    exact silent p

theorem Device.lawful_applyWrite (fits : o.table = 2 → o.start + o.data.length ≤ 256) : d.Lawful (d.applyWrite o) :=
  ⟨d.mapsRise_applyWrite o, d.inRange_applyWrite o, d.applyWrite_passingAtRest o fits⟩

theorem lawful_writeOrder : d.Lawful (writeOrder o d) := by
  unfold writeOrder
  split
  · exact d.lawful_reply _ _ _
  · split
    · exact d.lawful_reply _ _ _
    · next inside =>
      refine Device.lawful_ite ((d.lawful_applyWrite o fun two => ?_).trans (Device.lawful_reply _ _ _ _)) (d.lawful_reply _ _ _)
      simpa [two, Device.rangeOk, tableWords] using inside

end Whole

/-! ### Every command and every step -/

theorem Device.lawful_writes (d : Device) (kind : OrderParcel → Bool) : d.Lawful (d.takeOrder kind (checkedBody writeOrder)) :=
  d.lawful_takeOrder kind _ (Device.lawful_checkedBody _ fun o e => lawful_writeOrder e o)

theorem Device.lawful_timerExpiry (d : Device) (p : PortIx) (r : RowIx) : d.Lawful (d.timerExpiry p r) :=
  Device.lawful_of_quiet (d.quiet_timerExpiry p r) (d.orderly_timerExpiry p r)

theorem Device.lawful_releaseHold (d : Device) (p : PortIx) (r : RowIx) : d.Lawful (d.releaseHold p r) :=
  Device.lawful_of_quiet (d.quiet_releaseHold p r) (d.orderly_releaseHold p r)

/-- Every command keeps maps, registers and resting rows. -/
theorem Device.effect_lawful (d : Device) (c : Instr) : d.Lawful (d.effect c) := by
  have ordered : ∀ kind {run}, (∀ o (e : Device), e.Lawful (run o e)) → d.Lawful (d.takeOrder kind (checkedBody run)) :=
    fun kind _ ran => d.lawful_takeOrder kind _ (Device.lawful_checkedBody _ ran)
  cases c with
  | resetPinAssert => exact d.lawful_pinAssert
  | resetPinRelease straps => exact Device.lawful_ite (d.lawful_toPinReset straps) (.refl d)
  | downLaneSync => exact d.lawful_cp _ rfl
  | downLaneLost part => exact d.lawful_onDown _ fun e => e.lawful_downLost part
  | downSymbolError part => exact d.lawful_onDown _ fun e => (e.lawful_count _ _).trans (Device.lawful_endPart _ part)
  | downParcelAborted part => exact d.lawful_onDown _ fun e => e.lawful_endPart part
  | shortHeaderParcel => exact d.lawful_onDown _ fun e => (e.lawful_abortOpen []).trans (Device.lawful_count _ _ _)
  | lineParcelHeader hdr => exact d.lawful_onDown _ fun e => e.lawful_lineHeader hdr
  | lineParcelEnd bytes => exact d.lawful_onDown _ fun e => e.lawful_lineEnd bytes
  | orderParcelHeader hdr => exact d.lawful_onDown _ fun e => e.lawful_orderHeader hdr
  | orderParcelEnd bytes => exact d.lawful_onDown _ fun e => e.lawful_orderEnd bytes
  | numberParcel value part => exact d.lawful_onDown _ fun e => e.lawful_number value part
  | badKindParcel kind =>
    dsimp only [Device.effect]
    exact d.lawful_onDown _ fun e => e.lawful_badKind kind
  | returnInSync => exact d.lawful_cp _ rfl
  | returnInLost => exact d.lawful_onReturn _ Device.lawful_returnLost
  | returnSymbolError => exact d.lawful_onReturn _ fun e => (e.lawful_count _ _).trans (Device.lawful_discardReturn _)
  | returnParcelStart => exact d.lawful_onReturn _ Device.lawful_returnStart
  | returnParcelEnd bytes closing => exact d.lawful_onReturn _ fun e => e.lawful_returnEnd bytes closing
  | upLaneParcelSent => exact d.lawful_upSent
  | unknownOrderCode => exact d.lawful_takeOrder _ _ fun o e => e.lawful_reply _ _ _
  | read => exact ordered _ lawful_readOrder
  | readWindow => exact ordered _ lawful_readWindowOrder
  | windowReadComplete =>
    dsimp only [Device.effect]
    split
    · exact d.lawful_windowDone _ _ _ _
    · exact .refl d
  | write => exact d.lawful_writes _
  | writeEnabledWord => exact d.lawful_writes _
  | writeWaveforms => exact d.lawful_writes _
  | writeTestMode => exact d.lawful_writes _
  | writeSettleTime => exact d.lawful_writes _
  | writeIdleTickleInterval => exact d.lawful_writes _
  | writeMask => exact d.lawful_writes _
  | readClearCounters => exact ordered _ lawful_readClearOrder
  | readClearEvents => exact ordered _ lawful_readClearOrder
  | startJob => exact ordered _ lawful_startOrder
  | stopJob => exact ordered _ lawful_stopOrder
  | abortJob => exact ordered _ lawful_abortOrder
  | announce => exact ordered _ lawful_announceOrder
  | go => exact ordered _ lawful_goOrder
  | loadWaves => exact ordered _ lawful_loadWavesOrder
  | unpark => exact ordered _ lawful_unparkOrder
  | resetOrder => exact ordered _ lawful_resetOrderEffect
  | pickup => exact d.lawful_pickup
  | landingWriteRaised => exact d.lawful_raiseWrite
  | landingWriteComplete =>
    dsimp only [Device.effect]
    split
    · exact d.lawful_landWriteDone _
    · exact .refl d
  | rowFetchComplete =>
    dsimp only [Device.effect]
    split
    · exact d.lawful_fetchDone _
    · exact .refl d
  | filteredTransition order => exact d.lawful_filteredTransition order
  | interpolationTimerExpiry port row => exact .after (Device.lawful_inRowOrder d _) (d.lawful_timerExpiry port row)
  | holdRelease port row => exact Device.lawful_ite (d.lawful_releaseHold port row) (.refl d)
  | pdiLevelChange level => exact d.lawful_pdiChange level
  | pdiQualifyExpiry => exact d.lawful_pdiExpiry
  | frameSent port => exact d.lawful_frameSent port
  | fireTokenSent port =>
    exact Device.lawful_ite ((d.lawful_fireSent port).trans (Device.lawful_boundary _ port))
      (Device.lawful_ite (((d.lawful_boundary port).trans (Device.lawful_fireSent _ port)).trans (Device.lawful_boundary _ port))
        (.refl d))
  | headReturnLaneSync port => exact d.lawful_laneSync port
  | headReturnLaneLost port => exact d.lawful_laneLost port
  | ack port byte => exact d.lawful_receive port byte none _ _ fun _ => .refl
  | waveAck port byte => exact d.lawful_receive port byte none _ _ fun i e => e.lawful_waveAck port i
  | headFault port bytes => exact d.lawful_receive port bytes.first bytes.code _ _ fun c e => e.lawful_headFault port c
  | loadTimerExpiry port => exact d.lawful_loadExpiry port
  | idleTickleExpiry port => exact d.lawful_tickleAll port
  | encoderInputChange channel level => exact d.lawful_sampleChannel channel level
  | symbolBoundary port => exact Device.lawful_ite (.refl d) (d.lawful_boundary port)

theorem Device.lawful_tick (d : Device) : d.Lawful d.tick := Device.lawful_of_same rfl rfl rfl rfl rfl rfl

/-- Every step keeps maps, registers and resting rows. -/
theorem step_lawful {P : Device → Prop} (law : ∀ a b : Device, a.Lawful b → P a → P b) {s t : State} (h : P s.dev)
    (stepped : step s = .next t) : P t.dev :=
  step_keeps (fun d => law _ _ d.lawful_settle) (fun d => law _ _ d.lawful_tick) (fun c d => law _ _ (d.effect_lawful c)) h stepped

/-- Settles O57: every store into a map is `insertKey` or `eraseKey`, and both keep the keys rising. -/
theorem mapsStayCanonical : Obligations.MapsStayCanonical := by
  unfold Obligations.MapsStayCanonical
  exact fun _ _ h stepped => step_lawful (P := Device.mapsRise) (fun _ _ law => law.maps) h stepped

/-- Settles O58. -/
theorem registersStayInRange : Obligations.RegistersStayInRange := by
  unfold Obligations.RegistersStayInRange
  exact fun _ _ h stepped => step_lawful (P := Device.inRange) (fun _ _ law => law.range) h stepped

/-- Settles O60: a row is filled only while it prints, and emptied where it stops printing. -/
theorem passingRowsStayAtRest : Obligations.PassingRowsStayAtRest := by
  unfold Obligations.PassingRowsStayAtRest
  exact fun _ _ h stepped => step_lawful (P := Device.passingAtRest) (fun _ _ law => law.rest) h stepped

end Sys2Proof.Machine
end

section
/-! PROOFS. The down lane: the end of an open parcel, and the judgement of LINE, ORDER and NUMBER parcels (file 01). -/

namespace Sys2Proof.Machine

/-! ### How a command of the chain acts -/

/-- A command whose effect leaves the arbiters nothing to choose. -/
theorem exec_of_settled (c : Instr) {s : State} {e : Device} (settles : ofInputs c = false) (elsewhere : ofMemory c = false)
    (pin : s.dev.resetPin = false) (eff : s.dev.effect c = e) (settled : e.settled) : exec c s = .next { s with dev := e } := by
  rw [exec_eq_run c s settles elsewhere]
  exact State.run_of_settled pin eff settled

/-- A down-lane command on an IN_SYNC lane that leaves the arbiters nothing to choose. -/
theorem exec_onDown {c : Instr} {s : State} {f : Device → Device} (command : exec c s = s.run (fun d => d.onDown f))
    (working : s.dev.working) (sync : s.dev.cp.downSync = .inSync) (settled : (f s.dev).settled) :
    exec c s = .next { s with dev := f s.dev } :=
  command.trans (State.run_of_settled working.1 (if_pos sync) settled)

/-- The device `e` in the place of a state's. -/
theorem State.with_dev {s : State} {e f : Device} (h : e = f) : ({ s with dev := e } : State) = { s with dev := f } := by rw [h]

/-! ### Counts -/

/-- A device that differs in no device counter. -/
theorem counted_of_counts {a b c : Device} {f : DevCounter → Nat} (h : counted a b f) (same : c.ou.devCounts = b.ou.devCounts) :
    counted a c f := by
  intro x
  have eq : c.counter x = b.counter x := by rw [Device.counter, same, Device.counter]
  rw [eq]
  exact h x

/-- A counter counted once more. -/
theorem counted_count_of {a b : Device} {f : DevCounter → Nat} (h : counted a b f) (k : DevCounter) (free : f k = 0) :
    counted a (b.count k 1) (fun c => if c = k then 1 else f c) := by
  refine counted_congr (counted_trans h (counted_count b k 1)) fun c => ?_
  by_cases eq : c = k
  · subst eq; simp [free]
  · simp [eq]

/-! ### The end of an open parcel -/

section Ends
variable (d : Device)

/-- The part of a parcel that leaves `bs` behind its header. -/
def partOf (bs : List Byte) : DownPart := if bs = [] then .between else .afterHeader bs

theorem DownRx.abortTx_afterHeader (rx : DownRx) (bs : List Byte) : rx.abortTx (.afterHeader bs) = rx.abortTx (partOf bs) := by
  cases bs <;> rfl

theorem DownRx.abortTx_order (h : OrderHeader) (queued repeated : Bool) (bs : List Byte) :
    (DownRx.order h queued repeated).abortTx (partOf bs) = if repeated then bodyTx bs ++ [.abortEnd] else [] := by
  cases bs <;> rfl

theorem DownRx.abortTx_line (h : LineHeader) (counted : Bool) (bs : List Byte) :
    (DownRx.line h counted).abortTx (partOf bs) = bodyTx bs ++ [.abortEnd] := by
  cases bs <;> rfl

theorem DownRx.abortCount_partOf (rx : DownRx) (bs : List Byte) : rx.abortCount (partOf bs) = rx.abortCount .between := by
  cases bs <;> rfl

/-- The parcel whose header was examined last ends as aborted. -/
theorem Device.abortOpen_same (bs : List Byte) : d.abortOpen bs = { d with
    cp := d.cp.aborted (partOf bs)
    ib := d.cp.rx.abortIntake d.ib
    ou := { d.ou with devCounts := (d.abortOpen bs).ou.devCounts } } := by
  cases rx : d.cp.rx with
  | idle =>
    have same : d.cp.aborted (partOf bs) = d.cp := by
      simp only [ChainPort.aborted, rx, DownRx.abortTx, DownRx.abortQueue, List.append_nil]
      rw [← rx]
    simp only [Device.abortOpen, rx, same, DownRx.abortIntake]
  | line h counted =>
    simp only [Device.abortOpen, rx, ChainPort.aborted, DownRx.abortTx_line, DownRx.abortQueue, DownRx.abortIntake]
    cases counted <;> rfl
  | order h queued repeated =>
    simp only [Device.abortOpen, rx, ChainPort.aborted, DownRx.abortTx_order, DownRx.abortQueue, DownRx.abortIntake]
    cases repeated
    · simp only [Bool.false_eq_true, if_false, List.append_nil]; rfl
    · rfl
  | number v held =>
    simp only [Device.abortOpen, rx, ChainPort.aborted, DownRx.abortTx, DownRx.abortQueue, DownRx.abortIntake, List.append_nil]
    rfl
  | refused =>
    simp only [Device.abortOpen, rx, ChainPort.aborted, DownRx.abortTx, DownRx.abortQueue, DownRx.abortIntake, List.append_nil]
    rfl

theorem Device.abortOpen_counted (bs : List Byte) :
    counted d (d.abortOpen bs) (fun c => if c = .downAborted then d.cp.rx.abortCount .between else 0) := by
  have none_ : counted d d (fun c => if c = .downAborted then 0 else 0) := counted_congr (counted_same d d rfl) fun c => by simp
  have once : ∀ e : Device, e.ou.devCounts = d.ou.devCounts →
      counted d (e.count .downAborted 1) (fun c => if c = .downAborted then 1 else 0) := fun e same =>
    counted_count_of (counted_same d e same) .downAborted rfl
  cases rx : d.cp.rx with
  | idle =>
    simp only [Device.abortOpen, rx]
    exact none_
  | line h judged =>
    simp only [Device.abortOpen, rx]
    cases judged
    · exact once _ rfl
    · exact counted_of_counts none_ rfl
  | order h queued repeated =>
    simp only [Device.abortOpen, rx]
    cases repeated
    · exact once _ rfl
    · exact once _ rfl
  | number v held =>
    simp only [Device.abortOpen, rx]
    exact once _ rfl
  | refused =>
    simp only [Device.abortOpen, rx]
    exact counted_of_counts none_ rfl

/-- What ends at an abort-end, an early end or a loss of sync. -/
theorem Device.endPart_same (part : DownPart) : d.endPart part = { d with
    cp := d.cp.aborted part
    ib := d.cp.rx.abortIntake d.ib
    ou := { d.ou with devCounts := (d.endPart part).ou.devCounts } } := by
  cases part with
  | between => exact d.abortOpen_same []
  | headerless =>
    have same := d.abortOpen_same []
    have cp : d.cp.aborted .headerless = d.cp.aborted .between := rfl
    rw [cp]
    dsimp only [Device.endPart]
    rw [same]
    rfl
  | afterHeader bs =>
    rw [ChainPort.aborted, DownRx.abortTx_afterHeader]
    exact d.abortOpen_same bs

theorem Device.endPart_counted (part : DownPart) :
    counted d (d.endPart part) (fun c => if c = .downAborted then d.cp.rx.abortCount part else 0) := by
  cases part with
  | between => exact d.abortOpen_counted []
  | headerless =>
    refine counted_congr (counted_trans (d.abortOpen_counted []) (counted_count _ .downAborted 1)) fun c => ?_
    by_cases eq : c = .downAborted
    · simp [eq, DownRx.abortCount]
    · simp [eq]
  | afterHeader bs =>
    exact d.abortOpen_counted bs

end Ends

/-- Settles O7. -/
theorem downParcelEndsAborted : Obligations.DownParcelEndsAborted := by
  unfold Obligations.DownParcelEndsAborted
  intro s part working sync
  have same := s.dev.endPart_same part
  have counts := s.dev.endPart_counted part
  have once : ∀ k : DevCounter, k ≠ .downAborted → ∀ e : Device, e.ou.devCounts = ((s.dev.endPart part).count k 1).ou.devCounts →
      counted s.dev e (fun c => if c = k then 1 else if c = .downAborted then s.dev.cp.rx.abortCount part else 0) :=
    fun k ne e eq => counted_of_counts (counted_count_of counts k (if_neg ne)) eq
  have lost : s.dev.downLost part = { s.dev with
      cp := { s.dev.cp.aborted part with downSync := .lost }
      ib := s.dev.cp.rx.abortIntake s.dev.ib
      ou := { s.dev.ou with devEvents := s.dev.ou.devEvents ||| 2, devCounts := (s.dev.downLost part).ou.devCounts } } := by
    unfold Device.downLost
    rw [same]
    rfl
  have symbol : (s.dev.count .downSymbolErrors 1).endPart part = { s.dev with
      cp := s.dev.cp.aborted part
      ib := s.dev.cp.rx.abortIntake s.dev.ib
      ou := { s.dev.ou with devCounts := ((s.dev.count .downSymbolErrors 1).endPart part).ou.devCounts } } :=
    (s.dev.count .downSymbolErrors 1).endPart_same part
  refine ⟨⟨_, exec_onDown (f := fun d => d.downLost part) rfl working sync ?_, State.with_dev lost, ?_⟩,
    ⟨_, exec_onDown (f := fun d => (d.count .downSymbolErrors 1).endPart part) rfl working sync ?_, State.with_dev symbol, ?_⟩,
    ⟨_, exec_onDown (f := fun d => d.endPart part) rfl working sync ?_, State.with_dev same, counts⟩⟩
  · rw [lost]; exact Device.settled_congr working.2 rfl rfl rfl rfl
  · refine once .downLinkLosses (by decide) _ ?_
    unfold Device.downLost
    rfl
  · rw [symbol]; exact Device.settled_congr working.2 rfl rfl rfl rfl
  · refine counted_congr (counted_trans (counted_count s.dev .downSymbolErrors 1) (Device.endPart_counted _ part)) fun c => ?_
    by_cases eq : c = .downSymbolErrors
    · simp [eq]
    · simp [eq]
  · rw [same]; exact Device.settled_congr working.2 rfl rfl rfl rfl

/-- Settles O8. -/
theorem badParcelNotRepeated : Obligations.BadParcelNotRepeated := by
  unfold Obligations.BadParcelNotRepeated
  intro s working sync
  have same := s.dev.abortOpen_same []
  have counts := s.dev.abortOpen_counted []
  have once := counted_count_of counts .downBadParcels rfl
  have short : (s.dev.abortOpen []).count .downBadParcels 1 = { s.dev with
      cp := s.dev.cp.aborted .between
      ib := s.dev.cp.rx.abortIntake s.dev.ib
      ou := { s.dev.ou with devCounts := ((s.dev.abortOpen []).count .downBadParcels 1).ou.devCounts } } := by
    rw [same]
    rfl
  refine ⟨⟨_, exec_onDown (f := fun d => (d.abortOpen []).count .downBadParcels 1) rfl working sync ?_, State.with_dev short, once⟩,
    fun kind notLine notOrder notNumber => ?_⟩
  · rw [short]; exact Device.settled_congr working.2 rfl rfl rfl rfl
  have unknown : (Instr.badKindParcel kind).wellFormed = true := by simpa [Instr.wellFormed] using ⟨⟨notLine, notOrder⟩, notNumber⟩
  have eff : s.dev.effect (.badKindParcel kind) = { s.dev with
      cp := { s.dev.cp.aborted .between with rx := .refused }
      ib := s.dev.cp.rx.abortIntake s.dev.ib
      ou := { s.dev.ou with devCounts := ((s.dev.abortOpen []).count .downBadParcels 1).ou.devCounts } } := by
    dsimp only [Device.effect, Device.onDown]
    rw [if_pos sync, if_pos unknown, short]
  exact ⟨_, exec_of_settled _ rfl rfl working.1 eff (Device.settled_congr working.2 rfl rfl rfl rfl), rfl, once⟩

/-! ### LINE parcels -/

theorem HeadDescr.takes_eq (w : HeadDescr) (h : LineHeader) : w.takes h =
    (w.enabled && w.plane.val == h.plane.toNat && h.firstColumn.toNat ≤ w.origin &&
      w.origin + w.nozzles ≤ h.firstColumn.toNat + (h.countMinus1.toNat + 1)) := by
  rw [HeadDescr.takes, HeadDescr.inSpan, ← Bool.and_assoc]
  rfl

/-- The Intake Buffer has space for a parcel's copy once the open parcel has ended (R18, R19). -/
def Device.hasSpace (d : Device) (h : LineHeader) : Bool :=
  let buffer := d.cp.rx.abortIntake d.ib
  (buffer.complete.map (fun c => intakeSpace c.hdr)).sum + (buffer.filling.map intakeSpace).getD 0 +
    (d.le.map (fun g => intakeSpace g.copy.hdr)).getD 0 + intakeSpace h ≤ 262144

/-- What a LINE header does to the copies and their event. -/
theorem Device.lineHeader_cases (d : Device) (h : LineHeader) : d.lineHeader h =
    let e := (d.abortOpen []).emit [.start (lineHeaderBytes h)]
    if lineHeaderValid h then
      if d.needs h then
        if d.hasSpace h then { e with cp := { e.cp with rx := .line h false }, ib := { e.ib with filling := some h } }
        else { (e.setEvent .intakeOverflow).count .intakeOverflows 1 with cp := { e.cp with rx := .line h false } }
      else { e with cp := { e.cp with rx := .line h false } }
    else { e.count .downBadParcels 1 with cp := { e.cp with rx := .line h true } } := by
  have same := d.abortOpen_same []
  have needs : ((d.abortOpen []).emit [.start (lineHeaderBytes h)]).needs h = d.needs h := by rw [same]; rfl
  have space : (((d.abortOpen []).emit [.start (lineHeaderBytes h)]).intakeUsed + intakeSpace h ≤ Config.intakeBytes) ↔
      d.hasSpace h = true := by
    rw [same, Device.hasSpace, decide_eq_true_eq]
    rfl
  unfold Device.lineHeader Device.admitCopy
  simp only [needs, space]
  split
  · split
    · split <;> rfl
    · rfl
  · rfl

/-- Settles O9. -/
theorem lineHeaderAdmits : Obligations.LineHeaderAdmits := by
  unfold Obligations.LineHeaderAdmits
  intro s h working sync
  have same := s.dev.abortOpen_same []
  have counts := s.dev.abortOpen_counted []
  have cases_ := s.dev.lineHeader_cases h
  have line : s.dev.lineHeader h = { s.dev with
      cp := { s.dev.cp.aborted .between with
        rx := .line h (!lineHeaderValid h)
        downOut := (s.dev.cp.aborted .between).downOut ++ [.start (lineHeaderBytes h)] }
      ib := if lineHeaderValid h && s.dev.needs h && s.dev.hasSpace h then { s.dev.cp.rx.abortIntake s.dev.ib with filling := some h }
        else s.dev.cp.rx.abortIntake s.dev.ib
      ou := { s.dev.ou with
        devEvents := if lineHeaderValid h && s.dev.needs h && !s.dev.hasSpace h then s.dev.ou.devEvents ||| 16 else s.dev.ou.devEvents
        devCounts := (s.dev.lineHeader h).ou.devCounts } } := by
    rw [cases_, same]
    cases lineHeaderValid h
    · rfl
    · cases s.dev.needs h
      · rfl
      · cases s.dev.hasSpace h <;> rfl
  have counted_ : counted s.dev (s.dev.lineHeader h) (fun c =>
      if c = .downBadParcels then (if lineHeaderValid h then 0 else 1)
      else if c = .intakeOverflows then (if lineHeaderValid h && s.dev.needs h && !s.dev.hasSpace h then 1 else 0)
      else if c = .downAborted then s.dev.cp.rx.abortCount .between else 0) := by
    rw [cases_]
    have kept : ∀ e : Device, e.ou.devCounts = (s.dev.abortOpen []).ou.devCounts → counted s.dev e (fun c =>
        if c = .downBadParcels then 0 else if c = .intakeOverflows then 0
        else if c = .downAborted then s.dev.cp.rx.abortCount .between else 0) := fun e eq =>
      counted_congr (counted_of_counts counts eq) fun c => by cases c <;> rfl
    cases lineHeaderValid h
    · exact counted_congr (counted_count_of counts .downBadParcels rfl) fun c => by cases c <;> rfl
    · cases s.dev.needs h
      · exact kept _ rfl
      · cases s.dev.hasSpace h
        · exact counted_congr (counted_count_of counts .intakeOverflows rfl) fun c => by cases c <;> rfl
        · exact kept _ rfl
  have heads : (s.dev.pc.job != .config && allPorts.any (fun p =>
      (s.dev.head p).enabled && (s.dev.head p).plane.val == h.plane.toNat && h.firstColumn.toNat ≤ (s.dev.head p).origin &&
        (s.dev.head p).origin + (s.dev.head p).nozzles ≤ h.firstColumn.toNat + (h.countMinus1.toNat + 1))) = s.dev.needs h := by
    simp only [Device.needs, Device.jobActive, HeadDescr.takes_eq]
  refine ⟨_, exec_onDown (f := fun d => d.lineHeader h) rfl working sync ?_, ?_⟩
  · rw [line]; exact Device.settled_congr working.2 rfl rfl rfl rfl
  · rw [heads]
    exact ⟨State.with_dev line, counted_⟩

/-! ### The end of a LINE parcel -/

/-- Head counters of some ports counted once. -/
theorem headCounted_ports (d : Device) (k : HeadCounter) (cond : PortIx → Bool) :
    headCounted d (allPorts.foldl (fun e p => if cond p then e.countHead p k 1 else e) d)
      (fun p c => if c = k ∧ cond p = true then 1 else 0) := by
  have fold : ∀ (l : List PortIx) (e : Device), l.Nodup →
      headCounted e (l.foldl (fun e p => if cond p then e.countHead p k 1 else e) e)
        (fun p c => if p ∈ l ∧ c = k ∧ cond p = true then 1 else 0) := by
    intro l
    induction l with
    | nil => intro e _; exact headCounted_congr (headCounted_same e e rfl) fun p c => by simp
    | cons q l ih =>
      intro e nodup
      rw [List.nodup_cons] at nodup
      have rest := ih (if cond q then e.countHead q k 1 else e) nodup.2
      by_cases counts : cond q = true
      · rw [if_pos counts] at rest
        rw [List.foldl_cons, if_pos counts]
        refine headCounted_congr (headCounted_trans (headCounted_countHead e q k 1) rest) fun p c => ?_
        by_cases eq : p = q
        · subst eq; simp [nodup.1, counts]
        · simp [eq]
      · rw [if_neg counts] at rest
        rw [List.foldl_cons, if_neg counts]
        refine headCounted_congr rest fun p c => ?_
        by_cases eq : p = q
        · subst eq; simp [counts]
        · simp [eq]
  exact headCounted_congr (fold allPorts d allPorts_nodup) fun p c => by simp

theorem Device.countPorts_same (d : Device) (k : HeadCounter) (cond : PortIx → Bool) (l : List PortIx) :
    l.foldl (fun e p => if cond p then e.countHead p k 1 else e) d =
      { d with ou := { d.ou with
        headCounts := (l.foldl (fun e p => if cond p then e.countHead p k 1 else e) d).ou.headCounts } } := by
  refine foldl_keeps (Q := fun e : Device => e = { d with ou := { d.ou with headCounts := e.ou.headCounts } }) _ l ?_ d rfl
  intro e p same
  split
  · rw [same]; rfl
  · exact same

theorem judgeEnd_eq (hdr : List Byte) (n : Nat) (bytes : List Byte) : judgeEnd hdr n bytes =
    if bytes.length == n + 4 then
      if bytes.drop n == crcBytes (hdr ++ bytes.take n) then .good else .badCrc
    else .badLength := by
  simp only [judgeEnd, beq_iff_eq, ne_eq, ite_not]

/-- The heads whose window a parcel covers only in part (R20). -/
def Device.partlyCovered (d : Device) (h : LineHeader) (p : PortIx) : Bool :=
  (d.head p).enabled && (d.head p).hasPlane h && (d.head p).meetsSpan h && !(d.head p).inSpan h

theorem Device.countPartial_same (d : Device) (h : LineHeader) :
    d.countPartial h = { d with ou := { d.ou with headCounts := (d.countPartial h).ou.headCounts } } := by
  unfold Device.countPartial
  split
  · exact d.countPorts_same .partialSpan (d.partlyCovered h) allPorts
  · rfl

theorem Device.countPartial_counted {a : Device} (d : Device) (h : LineHeader) (tab : d.tab = a.tab) (pc : d.pc = a.pc)
    (counts : d.ou.headCounts = a.ou.headCounts) : headCounted a (d.countPartial h)
      (fun p c => if c = .partialSpan ∧ a.jobActive = true ∧ a.partlyCovered h p = true then 1 else 0) := by
  have active : a.jobActive = d.jobActive := by rw [Device.jobActive, Device.jobActive, pc]
  have covered : ∀ p, a.partlyCovered h p = d.partlyCovered h p := fun p => by
    simp only [Device.partlyCovered, Device.head, tab]
  refine headCounted_congr (headCounted_trans (headCounted_same a d counts) (?_ : headCounted d (d.countPartial h)
    (fun p c => if c = .partialSpan ∧ d.jobActive = true ∧ d.partlyCovered h p = true then 1 else 0)))
    fun p c => by rw [active, covered, Nat.zero_add]
  unfold Device.countPartial
  split
  · next active =>
    exact headCounted_congr (headCounted_ports d .partialSpan (d.partlyCovered h)) fun p c => by simp [active]
  · next idle =>
    exact headCounted_congr (headCounted_same d d rfl) fun p c => by simp [idle]

theorem headCounted_of_counts {a b c : Device} {f : PortIx → HeadCounter → Nat} (h : headCounted a b f)
    (same : c.ou.headCounts = b.ou.headCounts) : headCounted a c f := by
  intro p x
  have eq : c.headCounter p x = b.headCounter p x := by rw [Device.headCounter, same, Device.headCounter]
  rw [eq]
  exact h p x

theorem Device.completeCopy_same (d : Device) (body : List Byte) : d.completeCopy body = { d with
    ib := { complete := d.ib.complete ++ (d.ib.filling.map (fun k => { hdr := k, body := body })).toList, filling := none } } := by
  cases filling : d.ib.filling with
  | none =>
    have same : d.ib = { complete := d.ib.complete, filling := none } := by rw [← filling]
    simp only [Device.completeCopy, filling, Option.map_none, Option.toList_none, List.append_nil]
    rw [← same]
  | some k => simp only [Device.completeCopy, filling, Option.map_some, Option.toList_some]

/-- The bytes behind a LINE header are as many as its body and CRC have. -/
def lineLongEnough (h : LineHeader) (bytes : List Byte) : Bool := bytes.length == lineBodyBytes h + 4

/-- The CRC behind a LINE parcel's body is right. -/
def lineCrcRight (h : LineHeader) (bytes : List Byte) : Bool :=
  bytes.drop (lineBodyBytes h) == crcBytes (lineHeaderBytes h ++ bytes.take (lineBodyBytes h))

section LineEnd
variable {d : Device} {h : LineHeader} {judged : Bool} (rx : d.cp.rx = .line h judged) (bytes : List Byte)
include rx

/-- The end marker of a LINE parcel, by what its header and its bytes deserve. -/
theorem Device.lineEnd_cases : d.lineEnd bytes =
    let e := (d.emit (bodyTx bytes ++ [.endMarker])).rxIdle
    if judged then e
    else if lineLongEnough h bytes then
      if lineCrcRight h bytes then
        ({ e with ib := { complete := d.ib.complete ++
            (d.ib.filling.map (fun k => { hdr := k, body := bytes.take (lineBodyBytes h) })).toList
                          filling := none } } : Device).countPartial h
      else e.dropFilling.count .downCrcErrors 1
    else e.dropFilling.count .downBadParcels 1 := by
  have judgement : judgeEnd (lineHeaderBytes h) (lineBodyBytes h) bytes =
      if lineLongEnough h bytes then (if lineCrcRight h bytes then .good else .badCrc) else .badLength := judgeEnd_eq _ _ _
  simp only [Device.lineEnd, rx, judgement, Device.completeCopy_same]
  cases judged
  · cases lineLongEnough h bytes
    · rfl
    · cases lineCrcRight h bytes <;> rfl
  · rfl

theorem Device.lineEnd_same : d.lineEnd bytes = { d with
    cp := { d.cp with rx := .idle, downOut := d.cp.downOut ++ (bodyTx bytes ++ [.endMarker]) }
    ib :=
      if judged then d.ib
      else if !judged && lineLongEnough h bytes && lineCrcRight h bytes then
        { complete := d.ib.complete ++ (d.ib.filling.map (fun k => { hdr := k, body := bytes.take (lineBodyBytes h) })).toList
          filling := none }
      else { d.ib with filling := none }
    ou := { d.ou with devCounts := (d.lineEnd bytes).ou.devCounts, headCounts := (d.lineEnd bytes).ou.headCounts } } := by
  rw [Device.lineEnd_cases rx]
  cases judged
  · cases lineLongEnough h bytes
    · rfl
    · cases lineCrcRight h bytes
      · rfl
      · simp only [Bool.false_eq_true, if_false, if_true]
        rw [Device.countPartial_same]
        rfl
  · rfl

theorem Device.lineEnd_counted : counted d (d.lineEnd bytes) (fun c =>
    if c = .downBadParcels then (if !judged && !lineLongEnough h bytes then 1 else 0)
    else if c = .downCrcErrors then (if !judged && lineLongEnough h bytes && !lineCrcRight h bytes then 1 else 0) else 0) := by
  have kept : ∀ e : Device, e.ou.devCounts = d.ou.devCounts → counted d e (fun c =>
      if c = .downBadParcels then 0 else if c = .downCrcErrors then 0 else 0) := fun e eq =>
    counted_congr (counted_same d e eq) fun c => by cases c <;> rfl
  have once : ∀ (k : DevCounter) (e : Device), e.ou.devCounts = d.ou.devCounts →
      counted d (e.count k 1) (fun c => if c = k then 1 else 0) := fun k e eq =>
    counted_count_of (counted_same d e eq) k rfl
  rw [Device.lineEnd_cases rx]
  cases judged
  · cases lineLongEnough h bytes
    · exact counted_congr (once .downBadParcels _ rfl) fun c => by cases c <;> rfl
    · cases lineCrcRight h bytes
      · exact counted_congr (once .downCrcErrors _ rfl) fun c => by cases c <;> rfl
      · simp only [Bool.false_eq_true, if_false, if_true]
        rw [Device.countPartial_same]
        exact kept _ rfl
  · exact kept _ rfl

theorem Device.lineEnd_headCounted : headCounted d (d.lineEnd bytes) (fun p c =>
    if c = .partialSpan ∧ (!judged && lineLongEnough h bytes && lineCrcRight h bytes) = true ∧ d.jobActive = true ∧
      d.partlyCovered h p = true then 1 else 0) := by
  have kept : ∀ e : Device, e.ou.headCounts = d.ou.headCounts → headCounted d e (fun p c =>
      if c = .partialSpan ∧ false = true ∧ d.jobActive = true ∧ d.partlyCovered h p = true then 1 else 0) := fun e eq =>
    headCounted_congr (headCounted_same d e eq) fun p c => by simp
  rw [Device.lineEnd_cases rx]
  cases judged
  · cases lineLongEnough h bytes
    · exact kept _ rfl
    · cases lineCrcRight h bytes
      · exact kept _ rfl
      · simp only [Bool.false_eq_true, if_false, if_true]
        exact headCounted_congr (Device.countPartial_counted (a := d) _ h rfl rfl rfl) fun p c => by simp
  · exact kept _ rfl

end LineEnd

/-- Settles O10. -/
theorem lineEndJudges : Obligations.LineEndJudges := by
  unfold Obligations.LineEndJudges
  intro s h judged bytes working sync rx
  have line := Device.lineEnd_same rx bytes
  refine ⟨_, exec_onDown (f := fun d => d.lineEnd bytes) rfl working sync ?_, State.with_dev line, Device.lineEnd_counted rx bytes,
    headCounted_congr (Device.lineEnd_headCounted rx bytes) fun p c => ?_⟩
  · rw [line]; exact Device.settled_congr working.2 rfl rfl rfl rfl
  · have active : s.dev.jobActive = true ↔ s.dev.pc.job ≠ .config := bne_iff_ne
    have covered : s.dev.partlyCovered h p = true ↔ (s.dev.head p).enabled = true ∧ (s.dev.head p).plane.val = h.plane.toNat ∧
        h.firstColumn.toNat < (s.dev.head p).origin + (s.dev.head p).nozzles ∧
        (s.dev.head p).origin < h.firstColumn.toNat + (h.countMinus1.toNat + 1) ∧
        ¬(h.firstColumn.toNat ≤ (s.dev.head p).origin ∧
          (s.dev.head p).origin + (s.dev.head p).nozzles ≤ h.firstColumn.toNat + (h.countMinus1.toNat + 1)) := by
      unfold Device.partlyCovered HeadDescr.hasPlane HeadDescr.meetsSpan HeadDescr.inSpan pixelCount
      rw [Bool.and_eq_true, Bool.and_eq_true, Bool.and_eq_true, Bool.not_eq_true', ← Bool.not_eq_true, Bool.and_eq_true,
        Bool.and_eq_true, beq_iff_eq, decide_eq_true_eq, decide_eq_true_eq, decide_eq_true_eq, decide_eq_true_eq, and_assoc, and_assoc,
        and_assoc]
    exact if_congr (by rw [active, covered]; exact Iff.rfl) rfl rfl

end Sys2Proof.Machine
end

section
/-! PROOFS. ORDER and NUMBER parcels on the down lane (R6, R9, R11 to R15). -/

namespace Sys2Proof.Machine

/-! ### Replies of the Chain Port -/

/-- A reply place is FREE (R15). -/
def Device.hasFree (d : Device) : Bool := d.cp.replies.length + Exec.reserved d.ou.exec < 4

theorem Device.hasFree_iff (d : Device) : 0 < d.freePlaces ↔ d.hasFree = true := by
  rw [Device.freePlaces, Device.hasFree, decide_eq_true_eq]
  exact Nat.sub_pos_iff_lt

/-- A reply of the Chain Port: a FREE place, or the counter. -/
theorem Device.chainReply_eq (d : Device) (h : OrderHeader) (st : Status) (body : List Word) (full : DevCounter) :
    d.chainReply h st body full = if d.hasFree then d.pushReply h st body false else d.count full 1 := by
  simp only [Device.chainReply, d.hasFree_iff]

/-! ### ORDER headers -/

section OrderHeader
variable (d : Device) (h : OrderHeader)

/-- The order of a valid header is for this device's queue (R13). -/
def Device.isMine : Bool := h.dest == 0 || h.dest == d.cp.chainId

/-- The order of a valid header goes on down the lane (R7). -/
def Device.goesOn : Bool := h.dest == 0 || h.dest != d.cp.chainId

/-- A place of the order queue is free once the open parcel has ended. -/
def Device.hasRoom (d : Device) : Bool := (d.cp.aborted .between).orderQ.length < 4

/-- What an ORDER header does, by its validity, its destination and the places free. -/
theorem Device.orderHeader_cases : d.orderHeader h =
    let e := d.abortOpen []
    let out := if d.goesOn h then e.emit [.start (orderHeaderBytes h)] else e
    if orderHeaderValid h then
      if d.isMine h then
        if d.hasRoom then { out with cp := { out.cp with orderQ := out.cp.orderQ ++ [.arriving h], rx := .order h true (d.goesOn h) } }
        else if d.hasFree then
          ({ out.count .busyReplies 1 with cp := { out.cp with rx := .order h false (d.goesOn h) } } : Device).pushReply h .busy [] false
        else { out.count .ordersDropped 1 with cp := { out.cp with rx := .order h false (d.goesOn h) } }
      else { out with cp := { out.cp with rx := .order h false true } }
    else { e.count .downBadParcels 1 with cp := { e.cp with rx := .refused } } := by
  have same := d.abortOpen_same []
  have room : ∀ e : Device, e.cp.orderQ = (d.abortOpen []).cp.orderQ → (e.cp.orderQ.length < Config.orderPlaces ↔ d.hasRoom = true) := by
    intro e eq
    rw [eq, same, Device.hasRoom, decide_eq_true_eq]
    rfl
  have free : ∀ e : Device, e.cp.replies = (d.abortOpen []).cp.replies → e.ou.exec = (d.abortOpen []).ou.exec →
      (0 < e.freePlaces ↔ d.hasFree = true) := by
    intro e replies exec
    rw [Device.hasFree_iff, Device.hasFree, Device.hasFree, replies, exec, same]
    rfl
  have queued : ∀ (e : Device) (repeated : Bool), e.cp = { (d.abortOpen []).cp with downOut := e.cp.downOut } →
      e.ou = (d.abortOpen []).ou → e.queueOrder h repeated =
        if d.hasRoom then { e with cp := { e.cp with orderQ := e.cp.orderQ ++ [.arriving h], rx := .order h true repeated } }
        else if d.hasFree then
          ({ e.count .busyReplies 1 with cp := { e.cp with rx := .order h false repeated } } : Device).pushReply h .busy [] false
        else { e.count .ordersDropped 1 with cp := { e.cp with rx := .order h false repeated } } := by
    intro e repeated cp ou
    unfold Device.queueOrder
    simp only [room e (by rw [cp]), free e (by rw [cp]) (by rw [ou])]
    split
    · rfl
    · split <;> rfl
  cases valid : orderHeaderValid h with
  | false =>
    simp only [Device.orderHeader, valid, Bool.false_eq_true, if_false]
    rfl
  | true =>
    simp only [Device.orderHeader, valid, if_true]
    by_cases zero : h.dest = 0
    · have mine : d.isMine h = true := by simp [Device.isMine, zero]
      have on : d.goesOn h = true := by simp [Device.goesOn, zero]
      rw [if_pos zero, if_pos mine, on, if_pos rfl]
      exact queued ((d.abortOpen []).emit [.start (orderHeaderBytes h)]) true rfl rfl
    · rw [if_neg zero]
      by_cases own : h.dest = d.cp.chainId
      · have mine : d.isMine h = true := by simp [Device.isMine, own]
        have off : d.goesOn h = false := by
          rw [Device.goesOn, own, bne_self_eq_false, Bool.or_false, ← own]
          simpa using zero
        rw [if_pos own, if_pos mine, off, if_neg Bool.false_ne_true]
        exact queued (d.abortOpen []) false rfl rfl
      · have mine : ¬ d.isMine h = true := by
          rw [Device.isMine, Bool.or_eq_true, beq_iff_eq, beq_iff_eq]
          exact fun is => is.elim zero own
        have on : d.goesOn h = true := by simp [Device.goesOn, own]
        rw [if_neg own, if_neg mine, on, if_pos rfl]

/-- An ORDER header for the queue that finds no room but a FREE reply place. -/
def Device.drawsBusy : Bool := orderHeaderValid h && d.isMine h && !d.hasRoom && d.hasFree

/-- The device after an ORDER header, but for the reply BUSY. -/
def Device.orderOpened (d : Device) (h : OrderHeader) : Device :=
  let base := d.cp.aborted .between
  let queued := orderHeaderValid h && d.isMine h && d.hasRoom
  { d with
    cp := { base with
      rx := if orderHeaderValid h then .order h queued (d.goesOn h) else .refused
      orderQ := if queued then base.orderQ ++ [.arriving h] else base.orderQ
      downOut := if orderHeaderValid h && d.goesOn h then base.downOut ++ [.start (orderHeaderBytes h)] else base.downOut }
    ib := d.cp.rx.abortIntake d.ib
    ou := { d.ou with devCounts := (d.orderHeader h).ou.devCounts } }

theorem Device.goesOn_of_not_mine (mine : d.isMine h = false) : d.goesOn h = true := by
  rw [Device.isMine, Bool.or_eq_false_iff] at mine
  rw [Device.goesOn, bne, mine.2, Bool.not_false, Bool.or_true]

theorem Device.orderHeader_same : d.orderHeader h =
    if d.drawsBusy h then (d.orderOpened h).pushReply h .busy [] false else d.orderOpened h := by
  have same := d.abortOpen_same []
  have cases_ := d.orderHeader_cases h
  unfold Device.drawsBusy Device.orderOpened
  cases valid : orderHeaderValid h with
  | false =>
    simp only [valid, Bool.false_eq_true, if_false] at cases_
    rw [cases_, same]
    rfl
  | true =>
    cases mine : d.isMine h with
    | false =>
      have on := d.goesOn_of_not_mine h mine
      simp only [valid, mine, on, Bool.false_eq_true, if_false, if_true] at cases_
      rw [cases_, same, on]
      rfl
    | true =>
      cases room : d.hasRoom <;> cases free : d.hasFree <;> cases on : d.goesOn h
      all_goals
        simp only [valid, mine, room, free, on, Bool.false_eq_true, if_false, if_true] at cases_
        rw [cases_, same]
        rfl

theorem Device.orderHeader_counted : counted d (d.orderHeader h) (fun c =>
    if c = .downBadParcels then (if orderHeaderValid h then 0 else 1)
    else if c = .busyReplies then (if d.drawsBusy h then 1 else 0)
    else if c = .ordersDropped then (if orderHeaderValid h && d.isMine h && !d.hasRoom && !d.hasFree then 1 else 0)
    else if c = .downAborted then d.cp.rx.abortCount .between else 0) := by
  have counts := d.abortOpen_counted []
  have once : ∀ k : DevCounter, k ≠ .downAborted → ∀ e : Device, e.ou.devCounts = ((d.abortOpen []).count k 1).ou.devCounts →
      counted d e (fun c => if c = k then 1 else if c = .downAborted then d.cp.rx.abortCount .between else 0) :=
    fun k ne e eq => counted_of_counts (counted_count_of counts k (if_neg ne)) eq
  have out : (if d.goesOn h then (d.abortOpen []).emit [.start (orderHeaderBytes h)] else d.abortOpen []).ou.devCounts =
      (d.abortOpen []).ou.devCounts := by split <;> rfl
  have cases_ := d.orderHeader_cases h
  dsimp only at cases_
  unfold Device.drawsBusy
  generalize (if d.goesOn h then (d.abortOpen []).emit [.start (orderHeaderBytes h)] else d.abortOpen []) = e at cases_ out
  have again : ∀ k, (e.count k 1).ou.devCounts = ((d.abortOpen []).count k 1).ou.devCounts := fun k => by
    simp only [Device.count, out]
  rw [cases_]
  cases orderHeaderValid h
  · exact counted_congr (once .downBadParcels (by decide) _ rfl) fun c => by cases c <;> rfl
  · cases d.isMine h
    · exact counted_congr (counted_of_counts counts out) fun c => by cases c <;> rfl
    · cases d.hasRoom
      · cases d.hasFree
        · exact counted_congr (once .ordersDropped (by decide) _ (again _)) fun c => by cases c <;> rfl
        · exact counted_congr (once .busyReplies (by decide) _ (again _)) fun c => by cases c <;> rfl
      · cases d.hasFree
        · exact counted_congr (counted_of_counts counts out) fun c => by cases c <;> rfl
        · exact counted_congr (counted_of_counts counts out) fun c => by cases c <;> rfl

end OrderHeader

/-- A reply that the Chain Port gives at once, on a device whose arbiters stand as those of a settled one. -/
theorem Device.settle_replied {e d : Device} {busy : Bool} {h : OrderHeader} {st : Status} {body : List Word} (settled : d.settled)
    (ls : e.ls = d.ls) (replies : e.cp.replies = d.cp.replies) (returnQ : e.cp.returnQ = d.cp.returnQ)
    (upSending : e.cp.upSending = d.cp.upSending) :
    (if busy then e.pushReply h st body false else e).settle = { e with cp := { e.cp with
      replies := if busy then e.cp.replies ++ [answer e.cp.chainId h st body] else e.cp.replies
      upSending := if busy then some (e.cp.upSending.getD .replyQueue) else e.cp.upSending } } := by
  cases busy with
  | false => exact Device.settle_of_settled e (Device.settled_congr settled ls replies returnQ upSending)
  | true => exact Device.settle_pushReply e d settled ls returnQ upSending h st body false

/-- Settles O11. -/
theorem orderHeaderQueues : Obligations.OrderHeaderQueues := by
  unfold Obligations.OrderHeaderQueues
  intro s h working sync
  have settles := Device.settle_replied (e := s.dev.orderOpened h) (busy := s.dev.drawsBusy h) (h := h) (st := .busy) (body := [])
    working.2 rfl rfl rfl rfl
  rw [← Device.orderHeader_same] at settles
  have command : exec (.orderParcelHeader h) s = .next { s with dev := (s.dev.orderHeader h).settle } := by
    rw [← if_pos (c := s.dev.cp.downSync = .inSync) (t := s.dev.orderHeader h) (e := s.dev) sync]
    exact State.run_released s (fun d => d.onDown (fun d => d.orderHeader h)) working.1
  rw [settles] at command
  exact ⟨_, command, rfl, counted_of_counts (s.dev.orderHeader_counted h) rfl⟩

end Sys2Proof.Machine
end

section
/-! PROOFS. The end of an ORDER parcel, and NUMBER parcels (R6, R9, R11, R12, R14). -/

namespace Sys2Proof.Machine

/-! ### The end of an ORDER parcel -/

/-- The bytes behind an ORDER header are as many as its body and CRC have. -/
def orderLongEnough (h : OrderHeader) (bytes : List Byte) : Bool := bytes.length == 4 * h.words.toNat + 4

/-- The CRC behind an ORDER parcel's body is right. -/
def orderCrcRight (h : OrderHeader) (bytes : List Byte) : Bool :=
  bytes.drop (4 * h.words.toNat) == crcBytes (orderHeaderBytes h ++ bytes.take (4 * h.words.toNat))

/-- The tail answers a good order (R12). -/
def Device.tailAnswers (d : Device) (h : OrderHeader) (bytes : List Byte) : Bool :=
  orderLongEnough h bytes && orderCrcRight h bytes && d.cp.returnSync == .lost && h.dest != 0 && h.dest != d.cp.chainId

/-- The tail's answer, on a device with the Chain Port's lanes, ID and reply places of another. -/
theorem Device.tailAnswer_eq {d e : Device} {h : OrderHeader} (returnSync : e.cp.returnSync = d.cp.returnSync)
    (chainId : e.cp.chainId = d.cp.chainId) (replies : e.cp.replies = d.cp.replies) (exec : e.ou.exec = d.ou.exec) :
    e.tailAnswer h =
      if d.cp.returnSync == .lost && h.dest != 0 && h.dest != d.cp.chainId then
        if d.hasFree then e.pushReply h .noSuchDevice [] false else e.count .repliesDropped 1
      else e := by
  have free : e.hasFree = d.hasFree := by rw [Device.hasFree, replies, exec, Device.hasFree]
  simp only [Device.tailAnswer, Device.chainReply_eq, Device.tailFlag, returnSync, chainId, free]

section OrderEnd
variable {d : Device} {h : OrderHeader} {queued repeated : Bool} (rx : d.cp.rx = .order h queued repeated) (bytes : List Byte)
include rx

/-- The end marker of an ORDER parcel, by what its bytes deserve. -/
theorem Device.orderEnd_cases : d.orderEnd bytes =
    let e : Device := { d with cp := { d.cp with
      rx := .idle, downOut := if repeated then d.cp.downOut ++ (bodyTx bytes ++ [.endMarker]) else d.cp.downOut } }
    if orderLongEnough h bytes then
      if orderCrcRight h bytes then
        let f : Device := { e with cp := { e.cp with
          orderQ := if queued then d.cp.orderQ.map (OrderPlace.completeWith (takeWords h.words.toNat bytes)) else d.cp.orderQ } }
        if d.cp.returnSync == .lost && h.dest != 0 && h.dest != d.cp.chainId then
          if d.hasFree then f.pushReply h .noSuchDevice [] false else f.count .repliesDropped 1
        else f
      else e.dropArriving.count .downCrcErrors 1
    else e.dropArriving.count .downBadParcels 1 := by
  have judgement : judgeEnd (orderHeaderBytes h) (4 * h.words.toNat) bytes =
      if orderLongEnough h bytes then (if orderCrcRight h bytes then .good else .badCrc) else .badLength := judgeEnd_eq _ _ _
  simp only [Device.orderEnd, rx, judgement]
  cases orderLongEnough h bytes
  · cases repeated <;> rfl
  · cases orderCrcRight h bytes
    · cases repeated <;> rfl
    · cases repeated <;> cases queued <;> exact Device.tailAnswer_eq rfl rfl rfl rfl

end OrderEnd

/-- The device after the end of an ORDER parcel, but for the tail's reply. -/
def Device.orderClosed (d : Device) (h : OrderHeader) (queued repeated : Bool) (bytes : List Byte) : Device :=
  { d with
    cp := { d.cp with
      rx := .idle
      downOut := if repeated then d.cp.downOut ++ (bodyTx bytes ++ [.endMarker]) else d.cp.downOut
      orderQ :=
        if orderLongEnough h bytes && orderCrcRight h bytes then
          if queued then d.cp.orderQ.map (OrderPlace.completeWith (takeWords h.words.toNat bytes)) else d.cp.orderQ
        else d.cp.orderQ.filter OrderPlace.isComplete }
    ou := { d.ou with devCounts := (d.orderEnd bytes).ou.devCounts } }

section OrderEnd
variable {d : Device} {h : OrderHeader} {queued repeated : Bool} (rx : d.cp.rx = .order h queued repeated) (bytes : List Byte)

include rx

theorem Device.orderEnd_same : d.orderEnd bytes =
    if d.tailAnswers h bytes && d.hasFree then (d.orderClosed h queued repeated bytes).pushReply h .noSuchDevice [] false
    else d.orderClosed h queued repeated bytes := by
  have cases_ := Device.orderEnd_cases rx bytes
  unfold Device.tailAnswers Device.orderClosed
  cases long : orderLongEnough h bytes with
  | false =>
    simp only [long, Bool.false_eq_true, if_false] at cases_
    rw [cases_]
    rfl
  | true =>
    cases crc : orderCrcRight h bytes with
    | false =>
      simp only [long, crc, Bool.false_eq_true, if_false, if_true] at cases_
      rw [cases_]
      rfl
    | true =>
      simp only [long, crc, if_true] at cases_
      simp only [Bool.true_and]
      generalize (d.cp.returnSync == .lost && h.dest != 0 && h.dest != d.cp.chainId) = answers at cases_ ⊢
      cases answers <;> cases free : d.hasFree
      all_goals
        simp only [free, Bool.false_eq_true, if_false, if_true] at cases_
        rw [cases_]
        rfl

theorem Device.orderEnd_counted : counted d (d.orderEnd bytes) (fun c =>
    if c = .downBadParcels then (if orderLongEnough h bytes then 0 else 1)
    else if c = .downCrcErrors then (if orderLongEnough h bytes && !orderCrcRight h bytes then 1 else 0)
    else if c = .repliesDropped then (if d.tailAnswers h bytes && !d.hasFree then 1 else 0) else 0) := by
  have kept : ∀ e : Device, e.ou.devCounts = d.ou.devCounts → counted d e (fun _ => 0) := fun e eq => counted_same d e eq
  have once : ∀ (k : DevCounter) (e : Device), e.ou.devCounts = d.ou.devCounts →
      counted d (e.count k 1) (fun c => if c = k then 1 else 0) := fun k e eq =>
    counted_count_of (counted_same d e eq) k rfl
  have cases_ := Device.orderEnd_cases rx bytes
  unfold Device.tailAnswers
  cases long : orderLongEnough h bytes with
  | false =>
    simp only [long, Bool.false_eq_true, if_false] at cases_
    rw [cases_]
    exact counted_congr (once .downBadParcels _ rfl) fun c => by cases c <;> rfl
  | true =>
    cases crc : orderCrcRight h bytes with
    | false =>
      simp only [long, crc, Bool.false_eq_true, if_false, if_true] at cases_
      rw [cases_]
      exact counted_congr (once .downCrcErrors _ rfl) fun c => by cases c <;> rfl
    | true =>
      simp only [long, crc, if_true] at cases_
      simp only [Bool.true_and]
      generalize (d.cp.returnSync == .lost && h.dest != 0 && h.dest != d.cp.chainId) = answers at cases_ ⊢
      rw [cases_]
      cases answers
      · exact counted_congr (kept _ rfl) fun c => by cases c <;> rfl
      · cases d.hasFree
        · exact counted_congr (once .repliesDropped _ rfl) fun c => by cases c <;> rfl
        · exact counted_congr (kept _ rfl) fun c => by cases c <;> rfl

end OrderEnd

/-- A down-lane command on an IN_SYNC lane, before the arbiters choose. -/
theorem exec_onDown_settle {c : Instr} {s : State} {f : Device → Device} (command : exec c s = s.run (fun d => d.onDown f))
    (working : s.dev.working) (sync : s.dev.cp.downSync = .inSync) : exec c s = .next { s with dev := (f s.dev).settle } := by
  rw [command, State.run_released s _ working.1, Device.onDown, if_pos sync]

theorem OrderPlace.completeWith_eq (body : List Word) (q : OrderPlace) : q.completeWith body = match q with
    | .arriving k => .complete { hdr := k, body := body }
    | .complete o => .complete o := by
  cases q <;> rfl

/-- Settles O12. -/
theorem orderEndJudges : Obligations.OrderEndJudges := by
  unfold Obligations.OrderEndJudges
  intro s h queued repeated bytes working sync rx
  have settles := Device.settle_replied (e := s.dev.orderClosed h queued repeated bytes)
    (busy := s.dev.tailAnswers h bytes && s.dev.hasFree) (h := h) (st := .noSuchDevice) (body := []) working.2 rfl rfl rfl rfl
  rw [← Device.orderEnd_same rx] at settles
  have command := exec_onDown_settle (c := .orderParcelEnd bytes) (f := fun d => d.orderEnd bytes) rfl working sync
  rw [settles] at command
  refine ⟨_, command, ?_, counted_of_counts (Device.orderEnd_counted rx bytes) rfl⟩
  have completes : OrderPlace.completeWith (takeWords h.words.toNat bytes) = fun q => match q with
    | .arriving k => .complete { hdr := k, body := takeWords h.words.toNat bytes }
    | .complete o => .complete o := funext fun q => q.completeWith_eq _
  unfold Device.orderClosed
  rw [completes]
  rfl

/-! ### NUMBER parcels -/

/-- The bytes behind a NUMBER header are its CRC's four. -/
def numberLongEnough (bytes : List Byte) : Bool := bytes.length == 4

/-- The CRC of a NUMBER parcel of value `v` is right. -/
def numberCrcRight (v : Byte) (bytes : List Byte) : Bool := bytes == crcBytes (numberHeaderBytes v)

/-- A NUMBER parcel is taken: good, and held still (R9, R21). -/
def numberTaken (v : Byte) (held : Bool) (bytes : List Byte) : Bool := numberLongEnough bytes && numberCrcRight v bytes && held

/-- The header that the count reply of the tail answers (R11). -/
def countHeader : OrderHeader := { dest := 0, tag := 0, code := 0, words := 0 }

/-- The device after the end marker of a NUMBER parcel, but for the count reply. -/
def Device.numberClosed (d : Device) (v : Byte) (held : Bool) (bytes : List Byte) : Device :=
  let taken := numberTaken v held bytes
  { d with
    cp := { d.cp with
      rx := .idle
      chainId := if taken && !d.jobActive then numberedId v else d.cp.chainId
      downOut := if taken then d.cp.downOut ++ numberTx (nextNumber v) else d.cp.downOut }
    ou := { d.ou with
      devEvents := if taken && d.jobActive then d.ou.devEvents ||| 4 else d.ou.devEvents
      devCounts := (d.closeNumber bytes).ou.devCounts } }

theorem Device.acceptNumber_eq (d : Device) (v : Byte) : d.acceptNumber v =
    let e : Device := { d with
      cp := { d.cp with
        chainId := if !d.jobActive then numberedId v else d.cp.chainId
        downOut := d.cp.downOut ++ numberTx (nextNumber v) }
      ou := { d.ou with devEvents := if d.jobActive then d.ou.devEvents ||| 4 else d.ou.devEvents } }
    if d.tailFlag then
      if d.hasFree then e.pushReply countHeader .ok [BitVec.ofNat 32 v.toNat] false else e.count .repliesDropped 1
    else e := by
  simp only [Device.acceptNumber, Device.chainReply_eq]
  cases d.jobActive <;> rfl

section NumberEnd
variable {d : Device} {v : Byte} {held : Bool} (rx : d.cp.rx = .number v held) (bytes : List Byte)
include rx

theorem Device.closeNumber_cases : d.closeNumber bytes =
    if numberLongEnough bytes then
      if numberCrcRight v bytes then (if held then d.rxIdle.acceptNumber v else d.rxIdle)
      else d.rxIdle.count .downCrcErrors 1
    else d.rxIdle.count .downBadParcels 1 := by
  have judgement : judgeEnd (numberHeaderBytes v) 0 bytes =
      if numberLongEnough bytes then (if numberCrcRight v bytes then .good else .badCrc) else .badLength := judgeEnd_eq _ 0 _
  simp only [Device.closeNumber, rx, judgement]
  cases numberLongEnough bytes
  · rfl
  · cases numberCrcRight v bytes <;> rfl

theorem Device.closeNumber_same : d.closeNumber bytes =
    if numberTaken v held bytes && d.tailFlag && d.hasFree then
      (d.numberClosed v held bytes).pushReply countHeader .ok [BitVec.ofNat 32 v.toNat] false
    else d.numberClosed v held bytes := by
  have cases_ := Device.closeNumber_cases rx bytes
  rw [Device.acceptNumber_eq] at cases_
  unfold Device.numberClosed numberTaken
  cases long : numberLongEnough bytes with
  | false =>
    simp only [long, Bool.false_eq_true, if_false] at cases_
    rw [cases_]
    rfl
  | true =>
    cases crc : numberCrcRight v bytes with
    | false =>
      simp only [long, crc, Bool.false_eq_true, if_false, if_true] at cases_
      rw [cases_]
      rfl
    | true =>
      cases held with
      | false =>
        simp only [long, crc, Bool.false_eq_true, if_false, if_true] at cases_
        rw [cases_]
        rfl
      | true =>
        simp only [long, crc, if_true] at cases_
        have tailFlag : d.rxIdle.tailFlag = d.tailFlag := rfl
        have hasFree : d.rxIdle.hasFree = d.hasFree := rfl
        rw [tailFlag, hasFree] at cases_
        cases tail : d.tailFlag with
        | false =>
          simp only [tail, Bool.false_eq_true, if_false] at cases_
          rw [cases_]
          rfl
        | true =>
          cases free : d.hasFree
          all_goals
            simp only [tail, free, Bool.false_eq_true, if_false, if_true] at cases_
            rw [cases_]
            rfl

theorem Device.closeNumber_counted : counted d (d.closeNumber bytes) (fun c =>
    if c = .downBadParcels then (if numberLongEnough bytes then 0 else 1)
    else if c = .downCrcErrors then (if numberLongEnough bytes && !numberCrcRight v bytes then 1 else 0)
    else if c = .repliesDropped then (if numberTaken v held bytes && d.tailFlag && !d.hasFree then 1 else 0) else 0) := by
  have kept : ∀ e : Device, e.ou.devCounts = d.ou.devCounts → counted d e (fun _ => 0) := fun e eq => counted_same d e eq
  have once : ∀ (k : DevCounter) (e : Device), e.ou.devCounts = d.ou.devCounts →
      counted d (e.count k 1) (fun c => if c = k then 1 else 0) := fun k e eq =>
    counted_count_of (counted_same d e eq) k rfl
  rw [Device.closeNumber_cases rx, Device.acceptNumber_eq]
  unfold numberTaken
  cases numberLongEnough bytes
  · exact counted_congr (once .downBadParcels _ rfl) fun c => by cases c <;> rfl
  · cases numberCrcRight v bytes
    · exact counted_congr (once .downCrcErrors _ rfl) fun c => by cases c <;> rfl
    · cases held
      · exact counted_congr (kept _ rfl) fun c => by cases c <;> rfl
      · have tailFlag : d.rxIdle.tailFlag = d.tailFlag := rfl
        have hasFree : d.rxIdle.hasFree = d.hasFree := rfl
        rw [tailFlag, hasFree]
        cases d.tailFlag
        · exact counted_congr (kept _ rfl) fun c => by cases c <;> rfl
        · cases d.hasFree
          · exact counted_congr (once .repliesDropped _ rfl) fun c => by cases c <;> rfl
          · exact counted_congr (kept _ rfl) fun c => by cases c <;> rfl

end NumberEnd

/-- A state's device with a NUMBER parcel open, after the end of a parcel as aborted at most. -/
def Device.numberHeld (d : Device) (v : Byte) (held : Bool) (out : List DownTx) (orders : List OrderPlace) (ib : Intake)
    (counts : Vector Word 19) : Device :=
  { d with
    cp := { d.cp with rx := .number v held, downOut := out, orderQ := orders }
    ib := ib
    ou := { d.ou with devCounts := counts } }

/-- The end marker of that NUMBER parcel. -/
theorem numberEnded_of_held {s : State} (v : Byte) (held : Bool) (bytes : List Byte) (out : List DownTx) (orders : List OrderPlace)
    (ib : Intake) (counts : Vector Word 19) {aborted : Nat} (settled : s.dev.settled)
    (begun : counted s.dev (s.dev.numberHeld v held out orders ib counts) (fun c => if c = .downAborted then aborted else 0)) :
    numberEnded s { s with dev := ((s.dev.numberHeld v held out orders ib counts).closeNumber bytes).settle } v bytes held
      { s.dev.cp with rx := .idle, downOut := out, orderQ := orders } ib aborted := by
  have rx : (s.dev.numberHeld v held out orders ib counts).cp.rx = .number v held := rfl
  have closed := Device.closeNumber_counted rx bytes
  have settles := Device.settle_replied (e := (s.dev.numberHeld v held out orders ib counts).numberClosed v held bytes)
    (busy := numberTaken v held bytes && s.dev.tailFlag && s.dev.hasFree) (h := countHeader) (st := .ok)
    (body := [BitVec.ofNat 32 v.toNat]) settled rfl rfl rfl rfl
  have same := Device.closeNumber_same rx bytes
  have idle : (!s.dev.jobActive) = (s.dev.pc.job == .config) := by rw [Device.jobActive, bne, Bool.not_not]
  have ended := (congrArg Device.settle same).trans settles
  rw [ended]
  refine ⟨?_, ?_⟩
  · refine State.with_dev ?_
    have active : (s.dev.numberHeld v held out orders ib counts).jobActive = !(s.dev.pc.job == .config) := rfl
    simp only [Device.numberClosed, active, Bool.not_not]
    rfl
  · refine counted_congr (counted_trans begun (counted_of_counts closed rfl)) fun c => ?_
    cases c
    case downAborted => exact Nat.add_zero _
    all_goals exact Nat.zero_add _

/-- Settles O13. -/
theorem numberTakesChainId : Obligations.NumberTakesChainId := by
  unfold Obligations.NumberTakesChainId
  intro s v working sync
  have same := s.dev.abortOpen_same []
  have counts := s.dev.abortOpen_counted []
  have opened : s.dev.openNumber v = s.dev.numberHeld v true (s.dev.cp.aborted .between).downOut (s.dev.cp.aborted .between).orderQ
      (s.dev.cp.rx.abortIntake s.dev.ib) (s.dev.abortOpen []).ou.devCounts := by
    unfold Device.openNumber
    rw [same]
    rfl
  have begun : counted s.dev (s.dev.openNumber v) (fun c => if c = .downAborted then s.dev.cp.rx.abortCount .between else 0) :=
    counted_of_counts counts rfl
  refine ⟨fun bytes => ?_, ?_, fun bytes w held rx => ?_, fun bytes none_ => ?_⟩
  · refine ⟨_, exec_onDown_settle (f := fun d => (d.openNumber v).closeNumber bytes) rfl working sync, ?_⟩
    rw [opened] at begun ⊢
    exact numberEnded_of_held v true bytes _ _ _ _ working.2 begun
  · refine ⟨_, exec_onDown (f := fun d => d.openNumber v) rfl working sync ?_, ?_, begun⟩
    · rw [opened]; exact Device.settled_congr working.2 rfl rfl rfl rfl
    · refine State.with_dev ?_
      rw [opened]
      rfl
  · refine ⟨_, exec_onDown_settle (f := fun d => d.closeNumber bytes) rfl working sync, ?_⟩
    have held_ : s.dev = s.dev.numberHeld w held s.dev.cp.downOut s.dev.cp.orderQ s.dev.ib s.dev.ou.devCounts := by
      unfold Device.numberHeld
      rw [← rx]
    have ended := numberEnded_of_held (s := s) w held bytes s.dev.cp.downOut s.dev.cp.orderQ s.dev.ib s.dev.ou.devCounts (aborted := 0)
      working.2 (counted_congr (counted_same s.dev _ rfl) fun c => by simp)
    rw [← held_] at ended
    exact ended
  · have stays : s.dev.closeNumber bytes = s.dev := s.dev.closeNumber_none bytes none_
    have command := exec_onDown (c := .numberParcel v (.closed bytes)) (f := fun d => d.closeNumber bytes) rfl working sync
      (by rw [stays]; exact working.2)
    rw [stays] at command
    exact command

end Sys2Proof.Machine
end

section
/-! PROOFS. The return lane, the up lane, the RESET order, and orders that are refused (R14 to R17, R21, R23, R26). -/

namespace Sys2Proof.Machine

/-! ### The return lane -/

/-- A return-lane command on an IN_SYNC lane that leaves the arbiters nothing to choose. -/
theorem exec_onReturn {c : Instr} {s : State} {f : Device → Device} (command : exec c s = s.run (fun d => d.onReturn f))
    (working : s.dev.working) (sync : s.dev.cp.returnSync = .inSync) (settled : (f s.dev).settled) :
    exec c s = .next { s with dev := f s.dev } :=
  command.trans (State.run_of_settled working.1 (if_pos sync) settled)

/-- A stored parcel being received is discarded and counted. -/
theorem Device.discardReturn_same (d : Device) : d.discardReturn = { d with
    cp := { d.cp with returnRx := .idle }
    ou := { d.ou with devCounts := d.discardReturn.ou.devCounts } } := by
  unfold Device.discardReturn
  cases d.cp.returnRx <;> rfl

theorem Device.discardReturn_counted (d : Device) : counted d d.discardReturn (fun c =>
    if c = .returnErrors then (if d.cp.returnRx = .storing then 1 else 0) else 0) := by
  unfold Device.discardReturn
  cases d.cp.returnRx with
  | storing => exact counted_congr (counted_count d .returnErrors 1) fun c => by simp
  | idle => exact counted_congr (counted_same d _ rfl) fun c => by simp
  | ignoring => exact counted_congr (counted_same d _ rfl) fun c => by simp

/-- Settles O14. -/
theorem returnParcelDiscarded : Obligations.ReturnParcelDiscarded := by
  unfold Obligations.ReturnParcelDiscarded
  intro s working sync
  have same := s.dev.discardReturn_same
  have lost : s.dev.returnLost = { s.dev with
      cp := { s.dev.cp with returnSync := .lost, returnRx := .idle }
      ou := { s.dev.ou with devCounts := s.dev.returnLost.ou.devCounts } } := by
    unfold Device.returnLost
    rw [same]
  have symbol := (s.dev.count .returnErrors 1).discardReturn_same
  refine ⟨⟨_, exec_onReturn (f := Device.returnLost) rfl working sync ?_, ?_, State.with_dev lost, s.dev.discardReturn_counted⟩,
    ⟨_, exec_onReturn (f := fun d => (d.count .returnErrors 1).discardReturn) rfl working sync ?_, State.with_dev symbol, ?_⟩⟩
  · rw [lost]; exact Device.settled_congr working.2 rfl rfl rfl rfl
  · rw [lost]; rfl
  · rw [symbol]; exact Device.settled_congr working.2 rfl rfl rfl rfl
  · refine counted_congr (counted_trans (counted_count s.dev .returnErrors 1) (Device.discardReturn_counted _)) fun c => ?_
    have rx : (s.dev.count .returnErrors 1).cp.returnRx = s.dev.cp.returnRx := rfl
    rw [rx]
    by_cases eq : c = .returnErrors
    · subst eq
      cases s.dev.cp.returnRx <;> rfl
    · simp [eq]

theorem Device.returnStart_cases (d : Device) : d.returnStart =
    if d.cp.returnQ.length < 8 then { d.discardReturn with cp := { d.discardReturn.cp with returnRx := .storing } }
    else { (d.discardReturn.setEvent .returnOverflow).count .returnOverflows 1 with
      cp := { d.discardReturn.cp with returnRx := .ignoring } } := by
  unfold Device.returnStart
  rw [d.discardReturn_same]
  rfl

/-- With a parcel offered in the return buffer, a free up lane sends it where no reply waits. -/
theorem Device.upArbitrate_returned (d : Device) (offered : d.cp.returnQ ≠ []) (quiet : d.cp.upSending = none → d.cp.replies = []) :
    d.upArbitrate = { d with cp := { d.cp with upSending := some (d.cp.upSending.getD .returnBuffer) } } := by
  unfold Device.upArbitrate
  split
  · next x sending =>
    simp only [sending, Option.getD_some]
    rw [← sending]
  · next free =>
    rw [quiet free, free]
    cases returned : d.cp.returnQ with
    | nil => exact absurd returned offered
    | cons b rest => rfl

/-- The parcel being received is stored and complete at the closing marker (R16). -/
def Device.returnStored (d : Device) (bytes : List Byte) (closing : Closing) : Bool :=
  d.cp.returnRx == .storing && closing == .endMarker && returnParcelGood bytes

theorem Device.returnEnd_cases (d : Device) (bytes : List Byte) (closing : Closing) (receiving : d.cp.returnRx ≠ .idle) :
    d.returnEnd bytes closing =
      if d.returnStored bytes closing then { d with cp := { d.cp with returnQ := d.cp.returnQ ++ [bytes], returnRx := .idle } }
      else d.discardReturn := by
  unfold Device.returnEnd Device.returnStored
  cases rx : d.cp.returnRx with
  | idle => exact absurd rx receiving
  | ignoring => rfl
  | storing =>
    cases closing with
    | abortEnd => rfl
    | endMarker => cases good : returnParcelGood bytes <;> simp

theorem Device.returnStored_eq (d : Device) (bytes : List Byte) (closing : Closing) :
    (d.cp.returnRx == .storing && closing == .endMarker && bytes.length == 10 + 4 * (bytes.getD 5 0).toNat && bytes.getD 0 0 == 3 &&
      (bytes.getD 1 0).toNat ≤ 15 && (bytes.getD 5 0).toNat ≤ 64 &&
      bytes.drop (6 + 4 * (bytes.getD 5 0).toNat) == crcBytes (bytes.take (6 + 4 * (bytes.getD 5 0).toNat))) =
    d.returnStored bytes closing := by
  simp only [Device.returnStored, returnParcelGood, Bool.and_assoc]

/-- The closing marker of a return-in parcel, and the arbiter's choice after it. -/
theorem Device.settle_returnEnd {d : Device} (settled : d.settled) (bytes : List Byte) (closing : Closing)
    (receiving : d.cp.returnRx ≠ .idle) : (d.returnEnd bytes closing).settle = { d with
      cp := { d.cp with
        returnRx := .idle
        returnQ := if d.returnStored bytes closing then d.cp.returnQ ++ [bytes] else d.cp.returnQ
        upSending := if d.returnStored bytes closing then some (d.cp.upSending.getD .returnBuffer) else d.cp.upSending }
      ou := { d.ou with devCounts := (d.returnEnd bytes closing).ou.devCounts } } := by
  have cases_ := d.returnEnd_cases bytes closing receiving
  cases stored : d.returnStored bytes closing with
  | false =>
    rw [stored, if_neg Bool.false_ne_true, d.discardReturn_same] at cases_
    have chosen : (d.returnEnd bytes closing).settled := by rw [cases_]; exact Device.settled_congr settled rfl rfl rfl rfl
    rw [Device.settle_of_settled _ chosen, cases_]
    rfl
  | true =>
    rw [stored, if_pos rfl] at cases_
    have quiet := Device.settle_quietPort (d.returnEnd bytes closing) (by rw [cases_]; exact settled.1) (by rw [cases_]; exact settled.2.1)
    have sends := Device.upArbitrate_returned (d.returnEnd bytes closing) (by rw [cases_]; simp)
      (by rw [cases_]; exact fun free => (settled.2.2 free).1)
    rw [quiet, sends, cases_]
    rfl

/-- Settles O15. -/
theorem returnBufferStores : Obligations.ReturnBufferStores := by
  unfold Obligations.ReturnBufferStores
  intro s working sync
  refine ⟨⟨_, exec_onReturn (f := Device.returnStart) rfl working sync ?settled, ?state, ?counts⟩, fun bytes closing receiving => ?closed⟩
  case settled =>
    rw [Device.returnStart_cases, s.dev.discardReturn_same]
    split <;> exact Device.settled_congr working.2 rfl rfl rfl rfl
  case state =>
    refine State.with_dev ?_
    rw [Device.returnStart_cases, s.dev.discardReturn_same]
    split <;> rfl
  case counts =>
    rw [Device.returnStart_cases]
    split
    · exact counted_congr (counted_of_counts s.dev.discardReturn_counted rfl) fun c => by simp
    · refine counted_congr (counted_trans s.dev.discardReturn_counted (counted_count _ .returnOverflows 1)) fun c => ?_
      by_cases eq : c = .returnErrors
      · simp [eq]
      · simp [eq]
  case closed =>
    have command : exec (.returnParcelEnd bytes closing) s = .next { s with dev := (s.dev.returnEnd bytes closing).settle } := by
      rw [← if_pos (c := s.dev.cp.returnSync = .inSync) (t := s.dev.returnEnd bytes closing) (e := s.dev) sync]
      exact State.run_released s (fun d => d.onReturn (fun d => d.returnEnd bytes closing)) working.1
    rw [Device.settle_returnEnd working.2 bytes closing receiving] at command
    refine ⟨_, command, ?_⟩
    dsimp only
    rw [s.dev.returnStored_eq bytes closing]
    refine ⟨rfl, ?_⟩
    have cases_ := s.dev.returnEnd_cases bytes closing receiving
    cases stored : s.dev.returnStored bytes closing with
    | false =>
      rw [stored, if_neg Bool.false_ne_true] at cases_
      rw [cases_]
      exact counted_congr (counted_of_counts s.dev.discardReturn_counted rfl) fun c => by simp
    | true =>
      rw [stored, if_pos rfl] at cases_
      rw [cases_]
      exact counted_congr (counted_same s.dev _ rfl) fun c => by simp

/-! ### The up lane -/

/-- Settles O16: the arbiter of a working device chooses again once the lane is free. -/
theorem upLaneAlternates : Obligations.UpLaneAlternates := by
  unfold Obligations.UpLaneAlternates
  intro s working
  have sent : ∀ e : Device, s.dev.upSent = e → e.ls = s.dev.ls → exec .upLaneParcelSent s = .next { s with dev := e.upArbitrate } := by
    intro e eff ls
    have quiet := Device.settle_quietPort e (by rw [ls]; exact working.2.1) (by rw [ls]; exact working.2.2.1)
    rw [← quiet, ← eff]
    exact State.run_released s Device.upSent working.1
  constructor
  · intro r rest sending replies plain
    refine (sent { s.dev with cp := { s.dev.cp with replies := rest, upSending := none, upLast := .replyQueue } } (by
      simp only [Device.upSent, sending, replies, List.head?_cons, Option.any_some, plain, Bool.false_eq_true, if_false,
        List.tail_cons]) rfl).trans (congrArg Host.Outcome.next (State.with_dev ?_))
    unfold Device.upArbitrate
    cases rest <;> cases s.dev.cp.returnQ <;> rfl
  · intro b rest sending returned
    refine (sent { s.dev with cp := { s.dev.cp with returnQ := rest, upSending := none, upLast := .returnBuffer } } (by
      simp only [Device.upSent, sending, returned, List.tail_cons]) rfl).trans (congrArg Host.Outcome.next (State.with_dev ?_))
    unfold Device.upArbitrate
    cases rest <;> cases s.dev.cp.replies <;> rfl

/-! ### The RESET order -/

/-- The RESET order's reset leaves nothing for the arbiters. -/
theorem Device.softReset_settled (d : Device) : d.softReset.settled := by
  refine ⟨rfl, fun _ => ⟨rfl, rfl, rfl⟩, fun _ => ⟨rfl, rfl⟩⟩

theorem Device.softReset_storesCleared (d : Device) : d.softReset.storesCleared := d.abandonTransfer.toPinReset_storesCleared d.ou.memory

theorem Device.softReset_runCleared (d : Device) : d.softReset.runCleared := by
  have cleared := d.abandonTransfer.toPinReset_runCleared d.ou.memory
  obtain ⟨orderQ, replies, returnQ, upSending, upLast, debt, phase, count, reference, interval, rows, rest⟩ := cleared
  exact ⟨orderQ, replies, returnQ, upSending, upLast, debt, phase, count, reference, interval, rows, rest⟩

theorem Device.softReset_clearedPort (d : Device) (p : PortIx) : d.softReset.port p = clearedPort (d.port p).sync := vget_vmap d.hp p _

/-- Settles O17. -/
theorem resetOrderResets : Obligations.ResetOrderResets := by
  unfold Obligations.ResetOrderResets
  constructor
  · intro s o rest offered code body
    have kind : o.isCode 11 = true := by rw [OrderParcel.isCode, code]; rfl
    have fits : o.fits = true := by rw [OrderParcel.fits, code, body]; rfl
    have run := State.run_takeOrder s o rest offered (·.isCode 11) (checkedBody resetOrderEffect) kind
    refine run.trans (congrArg Host.Outcome.next (State.with_dev ?_))
    rw [checkedBody, if_pos fits]
    exact Device.settle_pushReply { s.dev.withoutFront rest with ou := { s.dev.ou with exec := some .reset } } s.dev offered.1.2 rfl rfl rfl
      o.hdr .ok [] true
  · intro s r rest working sending replies ends
    have reset : s.dev.upSent = s.dev.softReset := by
      simp only [Device.upSent, sending, replies, List.head?_cons, Option.any_some, ends, if_true]
    have now : s.dev.softReset.now = s.dev.now := by
      unfold Device.softReset
      rw [Device.abandonTransfer_eq]
      rfl
    have downOut : s.dev.softReset.cp.downOut = s.dev.cp.downOut := by
      unfold Device.softReset
      rw [Device.abandonTransfer_eq]
      rfl
    have pdi : s.dev.softReset.pc.pdi = s.dev.pc.pdi := by
      unfold Device.softReset
      rw [Device.abandonTransfer_eq]
      rfl
    refine ⟨{ s with dev := s.dev.softReset }, State.run_of_settled working.1 reset s.dev.softReset_settled, rfl, rfl, ?_, now,
      s.dev.softReset_storesCleared, s.dev.softReset_runCleared, rfl, rfl, rfl, downOut, ?_, ?_, rfl, rfl, rfl, rfl, pdi,
      s.dev.softReset_clearedPort, s.dev.readByte_abandonTransfer_outside⟩
    · rw [Device.alert, OrderUnit.alert_of_no_event (u := s.dev.softReset.ou) rfl rfl, Bool.and_false]
    · change s.dev.cp.rx.dropCopies = _
      cases s.dev.cp.rx <;> rfl
    · change s.dev.cp.returnRx.ignoreRest = _
      cases s.dev.cp.returnRx <;> rfl

/-! ### Orders that do not fit -/

section Refused
variable {s : State} {o : OrderParcel} {rest : List OrderPlace} (offered : s.dev.offers o rest)
include offered

/-- An order of a command's kind whose body does not fit its code. -/
theorem State.run_misfit (kind : OrderParcel → Bool) (run : OrderParcel → Device → Device) (ofKind : kind o = true)
    (misfit : o.fits = false) :
    s.run (fun d => d.takeOrder kind (checkedBody run)) = .next (s.answering rest o.hdr .badOrder []) :=
  State.run_answered s o rest offered kind _ ofKind .badOrder [] (by rw [checkedBody, misfit, if_neg Bool.false_ne_true])

/-- An order of a command's kind whose body fits, answered at once without any other effect. -/
theorem State.run_fitting (kind : OrderParcel → Bool) (run : OrderParcel → Device → Device) (ofKind : kind o = true)
    (fits : o.fits = true) (st : Status) (body : List Word)
    (answers : run o (s.dev.withoutFront rest) = (s.dev.withoutFront rest).reply o.hdr st body) :
    s.run (fun d => d.takeOrder kind (checkedBody run)) = .next (s.answering rest o.hdr st body) :=
  State.run_answered s o rest offered kind _ ofKind st body (by rw [checkedBody, fits, if_pos rfl]; exact answers)

end Refused

theorem OrderParcel.isCode_iff (o : OrderParcel) (code : Nat) : o.isCode code = true ↔ o.hdr.code.toNat = code := beq_iff_eq

/-- Settles O18. -/
theorem misfitOrderRefused : Obligations.MisfitOrderRefused := by
  unfold Obligations.MisfitOrderRefused
  intro s o rest offered
  have ofCode : ∀ code : Nat, o.hdr.code.toNat = code → o.isCode code = true := fun code => (o.isCode_iff code).2
  refine ⟨fun code => ?_, fun code n => ?_, fun code n => ?_, fun code n => ?_, fun code n => ?_, fun code n => ?_, fun code n => ?_,
    fun code n => ?_, fun code n => ?_, fun code n => ?_, fun code n => ?_, fun code n => ?_⟩
  · refine State.run_answered s o rest offered (fun o => !knownCode o.hdr.code) (fun o d => d.reply o.hdr .badOrder []) ?_ .badOrder [] rfl
    simp only [knownCode, Bool.not_eq_true', Bool.and_eq_false_iff, decide_eq_false_iff_not]
    omega
  · have misfit : o.fits = false := by simp [OrderParcel.fits, bodyFits, code, n]
    exact State.run_misfit offered _ _ (by rw [OrderParcel.isRead, ofCode 1 code, misfit]; rfl) misfit
  · have misfit : o.fits = false := by
      simp only [OrderParcel.fits, bodyFits, code, Bool.and_eq_false_iff, decide_eq_false_iff_not]
      omega
    exact State.run_misfit offered _ _ (ofCode 2 code) misfit
  · have misfit : o.fits = false := by simp [OrderParcel.fits, bodyFits, code, n]
    exact State.run_misfit offered _ _ (by rw [OrderParcel.isClearCounters, ofCode 3 code, misfit]; rfl) misfit
  · exact State.run_misfit offered _ _ (ofCode 4 code) (by simp [OrderParcel.fits, bodyFits, code, n])
  · exact State.run_misfit offered _ _ (ofCode 5 code) (by simp [OrderParcel.fits, bodyFits, code, n])
  · exact State.run_misfit offered _ _ (ofCode 6 code) (by simp [OrderParcel.fits, bodyFits, code, n])
  · exact State.run_misfit offered _ _ (ofCode 7 code) (by simp [OrderParcel.fits, bodyFits, code, n])
  · exact State.run_misfit offered _ _ (ofCode 8 code) (by simp [OrderParcel.fits, bodyFits, code, n])
  · exact State.run_misfit offered _ _ (ofCode 9 code) (by simp [OrderParcel.fits, bodyFits, code, n])
  · exact State.run_misfit offered _ _ (ofCode 10 code) (by simp [OrderParcel.fits, bodyFits, code, n])
  · exact State.run_misfit offered _ _ (ofCode 11 code) (by simp [OrderParcel.fits, bodyFits, code, n])

end Sys2Proof.Machine
end

section
/-! PROOFS. The table space: the checks of READ, WRITE and READ_CLEAR, and the words of a range (R26, R27, R96, R97). -/

namespace Sys2Proof.Machine

/-! ### The checks (R26) -/

theorem tableWords_eq {table : Nat} (low : table ≤ 9) : tableWords table = extents.getD table 0 := by
  interval_cases table <;> rfl

theorem Device.rangeOk_iff (d : Device) {table : Nat} (start count : Nat) (low : table ≤ 9) :
    d.rangeOk table start count = true ↔ withinTable table start count := by
  rw [Device.rangeOk, if_neg (by omega), decide_eq_true_eq, tableWords_eq low]

theorem Device.windowRangeOk_iff (d : Device) (start count : Nat) :
    d.windowRangeOk start count = true ↔ d.withinWindow start count := by
  simp only [Device.windowRangeOk, Option.any_eq_true, Bool.and_eq_true, decide_eq_true_eq, Device.withinWindow, Option.mem_def]

theorem writable_iff (job : JobState) (table i : Nat) (known : table ≤ 10) : writable job table i = true ↔ ¬ lockedWord job table i := by
  unfold lockedWord
  cases job <;> interval_cases table <;> simp [writable] <;> omega

/-- Settles O19. -/
theorem tableAccessRefused : Obligations.TableAccessRefused := by
  unfold Obligations.TableAccessRefused
  intro s o rest offered
  refine ⟨fun code n => ?_, fun code low high => ?_, fun code n => ?_⟩
  · have ofCode : o.isCode 1 = true := by rw [OrderParcel.isCode, code]; rfl
    have fits : o.fits = true := by simp [OrderParcel.fits, bodyFits, code, n]
    have kind : o.table ≠ 10 → o.isRead = true := fun ne => by simp [OrderParcel.isRead, ofCode, fits, ne]
    refine ⟨fun beyond => ?_, fun known bad => ?_, fun window bad => ?_⟩
    · exact State.run_fitting offered OrderParcel.isRead readOrder (kind (by omega)) fits _ _ (if_pos beyond)
    · refine State.run_fitting offered OrderParcel.isRead readOrder (kind (by omega)) fits _ _ ?_
      rw [readOrder, if_neg (by omega), if_pos]
      rw [Bool.not_eq_true', ← Bool.not_eq_true, Device.rangeOk_iff _ _ _ known]
      tauto
    · refine State.run_fitting offered OrderParcel.isReadWindow readWindowOrder (by simp [OrderParcel.isReadWindow, ofCode, fits, window])
        fits _ _ ?_
      rw [readWindowOrder, if_pos]
      rw [Bool.not_eq_true', ← Bool.not_eq_true, Device.windowRangeOk_iff]
      tauto
  · have ofCode : o.isCode 2 = true := by rw [OrderParcel.isCode, code]; rfl
    have fits : o.fits = true := by simp [OrderParcel.fits, bodyFits, code, low, high]
    have some_ : 1 ≤ o.data.length := by rw [OrderParcel.data, List.length_drop]; omega
    have locked : ∀ known : o.table ≤ 10, (∃ k < o.data.length, lockedWord s.dev.pc.job o.table (o.start + k)) →
        ¬ (List.range o.data.length).all (fun k => writable s.dev.pc.job o.table (o.start + k)) = true := by
      rintro known ⟨k, inside, lock⟩ all
      exact (writable_iff _ _ _ known).1 (List.all_eq_true.1 all k (List.mem_range.2 inside)) lock
    refine ⟨fun beyond => ?_, fun known outside => ?_, fun known inside lock => ?_, fun window => ?_⟩
    · exact State.run_fitting offered OrderParcel.isWrite writeOrder ofCode fits _ _ (if_pos beyond)
    · refine State.run_fitting offered OrderParcel.isWrite writeOrder ofCode fits _ _ ?_
      rw [writeOrder, if_neg (by omega), if_pos]
      rw [Bool.not_eq_true', ← Bool.not_eq_true, Device.rangeOk_iff _ _ _ known]
      exact ⟨by omega, outside⟩
    · refine State.run_fitting offered OrderParcel.isWrite writeOrder ofCode fits _ _ ?_
      rw [writeOrder, if_neg (by omega), if_neg, if_neg (locked (by omega) lock)]
      rw [Bool.not_eq_true', ← Bool.not_eq_true, Device.rangeOk_iff _ _ _ known]
      tauto
    · refine State.run_fitting offered OrderParcel.isWrite writeOrder ofCode fits _ _ ?_
      rw [writeOrder, if_neg (by omega), if_neg (by tauto), if_neg (locked (by omega) ⟨0, some_, by simp [lockedWord, window]⟩)]
  · have ofCode : o.isCode 3 = true := by rw [OrderParcel.isCode, code]; rfl
    have fits : o.fits = true := by simp [OrderParcel.fits, bodyFits, code, n]
    have kind : o.table ≠ 8 → o.isClearCounters = true := fun ne => by simp [OrderParcel.isClearCounters, ofCode, fits, ne]
    have bad : ∀ table, o.table = table → table = 7 ∨ table = 8 → (o.count = 0 ∨ 64 < o.count) ∨ ¬ withinTable table o.start o.count →
        readClearOrder o (s.dev.withoutFront rest) = (s.dev.withoutFront rest).reply o.hdr .badIndex [] := by
      intro table eq either bad
      rw [readClearOrder, if_neg (by omega), if_pos]
      rw [Bool.not_eq_true', ← Bool.not_eq_true, Device.rangeOk_iff _ _ _ (by omega), eq]
      tauto
    refine ⟨fun ne ne' => ?_, fun counters refused => ?_, fun events refused => ?_⟩
    · exact State.run_fitting offered OrderParcel.isClearCounters readClearOrder (kind ne') fits _ _ (if_pos ⟨ne, ne'⟩)
    · exact State.run_fitting offered OrderParcel.isClearCounters readClearOrder (kind (by omega)) fits _ _
        (bad 7 counters (.inl rfl) refused)
    · exact State.run_fitting offered OrderParcel.isClearEvents readClearOrder
        (by simp [OrderParcel.isClearEvents, ofCode, fits, events]) fits _ _ (bad 8 events (.inr rfl) refused)

/-! ### READ (R27, R29, R133) -/

theorem Device.pageWord_record (d : Device) (n : Nat) :
    d.pageWord (n + 8) = ((d.pc.queue[n / 8]?).map (fun q => q.word (n % 8))).getD 0 := rfl

/-- The words of a record in the view (R133). -/
theorem PageRec.word_eq (q : PageRec) {k : Nat} (small : k < 8) : q.word k =
    (let (state, base) : Nat × Pos := match q.state with
      | .announced => (0, 0)
      | .bound b => (1, b)
      | .active b => (2, b)
    [BitVec.ofNat 32 (16777216 * q.tag.toNat + state), BitVec.ofNat 32 q.length, base, q.starved, q.skipped].getD k 0) := by
  have first : q.word 0 = BitVec.ofNat 32 (16777216 * q.tag.toNat + q.state.code) := by
    rw [Nat.add_comm]
    rfl
  interval_cases k
  · rw [first]
    cases q.state <;> rfl
  · cases q.state <;> rfl
  · cases state : q.state <;> simp [PageRec.word, PageRec.base, state]
  all_goals cases q.state <;> rfl

/-- Settles O20. -/
theorem readReturnsRange : Obligations.ReadReturnsRange := by
  unfold Obligations.ReadReturnsRange
  refine ⟨fun s o rest offered code n known low high inside => ?_, fun d => ?_, fun d => ⟨?_, fun i k small => ?_⟩⟩
  · have ofCode : o.isCode 1 = true := by rw [OrderParcel.isCode, code]; rfl
    have fits : o.fits = true := by simp [OrderParcel.fits, bodyFits, code, n]
    have kind : o.isRead = true := by
      have ne : o.table ≠ 10 := by omega
      simp [OrderParcel.isRead, ofCode, fits, ne]
    refine State.run_fitting offered OrderParcel.isRead readOrder kind fits _ _ ?_
    rw [readOrder, if_neg (by omega), if_neg]
    · rfl
    · rw [Bool.not_eq_true', ← Bool.not_eq_true, Device.rangeOk_iff _ _ _ known]
      omega
  · change [d.identityWord 0, d.identityWord 1, d.identityWord 2, d.identityWord 3, d.identityWord 4, d.identityWord 5] = _
    have tail : d.identityWord 3 = if d.cp.returnSync = .lost then 1 else 0 := by
      cases sync : d.cp.returnSync <;> simp [Device.identityWord, Device.tailFlag, sync, flagN, wordN]
    have memory : d.identityWord 4 = match d.ou.memory with
        | .m512 => 512
        | .m1024 => 1024
        | .m2048 => 2048 := by
      change wordN (segmentsOf d.ou.memory) = _
      cases d.ou.memory <;> rfl
    have job : d.identityWord 5 = match d.pc.job with
        | .config => 0
        | .run => 1
        | .stopping => 2 := by
      change wordN d.pc.job.code = _
      cases d.pc.job <;> rfl
    rw [tail, memory, job]
    rfl
  · have scheduled : d.pitchScheduled.map d.pitchCount = if d.tab.job.source = .pitch ∧ d.pc.job = .run then
        d.pc.anchor.map (fun a => a + BitVec.ofNat 32 d.tab.job.pitch - BitVec.ofNat 32 d.tab.job.offset) else none := by
      unfold Device.pitchScheduled
      split <;> rfl
    rw [← scheduled]
    change [d.pageWord 0, d.pageWord 1, d.pageWord 2, d.pageWord 3, d.pageWord 4, d.pageWord 5, d.pageWord 6, d.pageWord 7] = _
    have report : d.pageWord 1 = match d.pc.report with
        | none => 0
        | some q => BitVec.ofNat 32 (256 + q.tag.toNat) := by
      change (d.pc.report.map _).getD 0 = _
      cases d.pc.report <;> rfl
    have present : d.pageWord 7 = BitVec.ofNat 32 ((if d.pc.boundLimit = none then 0 else 1) +
        (if d.pitchScheduled.map d.pitchCount = none then 0 else 2)) := by
      change wordN (flagN d.pc.boundLimit.isSome + 2 * flagN d.pitchScheduled.isSome) = _
      cases d.pc.boundLimit <;> cases d.pitchScheduled <;> rfl
    rw [report, present]
    rfl
  · rw [show 8 + 8 * i + k = 8 * i + k + 8 by omega]
    change d.pageWord (8 * i + k + 8) = _
    rw [Device.pageWord_record, show (8 * i + k) / 8 = i by omega, show (8 * i + k) % 8 = k by omega]
    cases d.pc.queue[i]? with
    | none => rfl
    | some q => exact q.word_eq small

end Sys2Proof.Machine
end

section
/-! PROOFS. Reads of the line store window (R96, R97). -/

namespace Sys2Proof.Machine

/-! ### The memory port when it is freed (R94) -/

/-- A free port without a window read waiting serves what `LineStore.freed` says. -/
theorem Device.grant_freed (d : Device) (free : d.ls.service = none) (window : d.ls.window = none) :
    d.grant = { d with ls := d.ls.freed } := by
  unfold LineStore.freed LineStore.next
  cases fetches : d.ls.fetchQ with
  | cons f fs => simp [Device.grant, free, fetches]
  | nil =>
    cases writes : d.ls.writeQ with
    | cons w ws => simp [Device.grant, free, fetches, writes]
    | nil =>
      have same : d.ls = { d.ls with fetchQ := [], writeQ := [], window := none, service := none } := by
        rw [← fetches, ← writes, ← window, ← free]
      simp only [Device.grant, free, fetches, writes, window, List.tail_nil, if_true]
      rw [← same]

theorem Device.joinFetches_none (d : Device) (none_ : d.ls.fetchRaised = []) : d.joinFetches = d := by
  have same : d.ls = { d.ls with fetchQ := d.ls.fetchQ ++ [], fetchRaised := [] } := by rw [List.append_nil, ← none_]
  unfold Device.joinFetches
  rw [none_, ← same]

/-- A completion that raised no fetch frees the port. -/
theorem Device.settle_freed (d : Device) (none_ : d.ls.fetchRaised = []) (free : d.ls.service = none) (window : d.ls.window = none) :
    d.settle = ({ d with ls := d.ls.freed } : Device).upArbitrate := by
  rw [Device.settle, d.joinFetches_none none_, d.grant_freed free window]

/-! ### The order and its grant -/

/-- The window read that a READ of table 10 asks for. -/
def OrderParcel.windowRead (o : OrderParcel) : WindowRead :=
  { port := portN (o.start / 1048576), position := o.start / 256 % 4096, word := o.start % 256, count := o.count }

/-- The device with a window read in execution and waiting. -/
def Device.windowAsked (d : Device) (rest : List OrderPlace) (o : OrderParcel) : Device :=
  { d with
    cp := d.cp.taken rest
    ou := { d.ou with exec := some (.windowRead o.hdr) }
    ls := { d.ls with window := some o.windowRead } }

section Asked
variable {s : State} {o : OrderParcel} {rest : List OrderPlace} (offered : s.dev.offers o rest) (code : o.hdr.code = 1)
  (n : o.body.length = 2) (table : o.table = 10) (low : 1 ≤ o.count) (high : o.count ≤ 64)
  (inside : s.dev.withinWindow o.start o.count)
include offered code n table low high inside

theorem exec_readWindow : exec .readWindow s = .next { s with dev := (s.dev.windowAsked rest o).settle } := by
  have fits : o.fits = true := by simp [OrderParcel.fits, bodyFits, code, n]
  have ofCode : o.isCode 1 = true := by rw [OrderParcel.isCode, code]; rfl
  have kind : o.isReadWindow = true := by simp [OrderParcel.isReadWindow, ofCode, fits, table]
  have run := State.run_takeOrder s o rest offered OrderParcel.isReadWindow (checkedBody readWindowOrder) kind
  refine run.trans (congrArg Host.Outcome.next (State.with_dev (congrArg Device.settle ?_)))
  rw [checkedBody, if_pos fits, readWindowOrder, if_neg]
  · rfl
  · rw [Bool.not_eq_true', ← Bool.not_eq_true, Device.windowRangeOk_iff]
    have same : (s.dev.withoutFront rest).withinWindow o.start o.count := inside
    exact fun bad => bad.elim (by omega) fun bad => bad.elim (by omega) fun outside => outside same

end Asked

/-- The slot that a window read names, with its ring (R97). -/
theorem Device.grant_window (d : Device) (w : WindowRead) (free : d.ls.service = none) (fetches : d.ls.fetchQ = [])
    (writes : d.ls.writeQ = []) (window : d.ls.window = some w) : d.grant = d.grantWindow w := by
  simp only [Device.grant, free, fetches, writes, window]

theorem recordWord1_eq (g : Ring) (k : Slot) : recordWord1 g k =
    BitVec.ofNat 16 g.slots.length ++ (if k.state = .landed then (1 : Byte) else 0) ++ BitVec.ofNat 8
      ((if vget k.done 0 then 1 else 0) + (if vget k.done 1 then 2 else 0) + (if vget k.done 2 then 4 else 0) +
        (if vget k.done 3 then 8 else 0)) := by
  unfold recordWord1 allRows
  simp only [List.map_cons, List.map_nil, List.sum_cons, List.sum_nil, Nat.add_zero, Nat.add_assoc]
  rfl

section Grants
variable {d : Device} {w : WindowRead} {g : Ring} (ring : d.ring w.port = some g)
include ring

theorem Device.grantWindow_found {k : Slot} (slot : g.slots[w.position]? = some k) : d.grantWindow w = { d with ls := { d.ls with
    window := none
    service := some (.window w (recordWord0 k) (recordWord1 g k) (g.slotAddr w.position)) } } := by
  have found : (Device.ring { d with ls := { d.ls with window := none } } w.port).bind (fun g =>
      (g.slots[w.position]?).map (fun t => (g, t))) = some (g, k) := by
    rw [show Device.ring { d with ls := { d.ls with window := none } } w.port = some g from ring, Option.bind_some, slot, Option.map_some]
  rw [Device.grantWindow, found]

theorem Device.grantWindow_absent {h : OrderHeader} (beyond : g.slots.length ≤ w.position) (exec : d.ou.exec = some (.windowRead h)) :
    d.grantWindow w = ({ d with ls := { d.ls with window := none } } : Device).finishExec h .badIndex [] := by
  have found : (Device.ring { d with ls := { d.ls with window := none } } w.port).bind (fun g =>
      (g.slots[w.position]?).map (fun t => (g, t))) = none := by
    rw [show Device.ring { d with ls := { d.ls with window := none } } w.port = some g from ring, Option.bind_some,
      List.getElem?_eq_none beyond, Option.map_none]
  simp only [Device.grantWindow, found, exec]

end Grants

/-- A device that sends on the up lane or has nothing to send keeps its choice. -/
theorem Device.upArbitrate_kept (d : Device) (lane : d.cp.upSending = none → d.cp.replies = [] ∧ d.cp.returnQ = []) :
    d.upArbitrate = d := by
  cases sending : d.cp.upSending with
  | some x => exact d.upArbitrate_busy x sending
  | none => exact d.upArbitrate_none (lane sending).1 (lane sending).2

/-- The words of a window (05, section 5.7). -/
theorem windowWord_eq (m : List Host.Cell) (record0 record1 : Word) (addr i : Nat) : windowWord m record0 record1 addr i =
    if i = 0 then record0
    else if i = 1 then record1
    else
      let a := addr + 4 * (i - 2)
      readByte m a ++ readByte m (a + 1) ++ readByte m (a + 2) ++ readByte m (a + 3) := by
  match i with
  | 0 => rfl
  | 1 => rfl
  | i + 2 => rfl

/-- Settles O22. -/
theorem windowReadServed : Obligations.WindowReadServed := by
  unfold Obligations.WindowReadServed
  constructor
  · intro s o rest offered code n table low high inside
    have asked := exec_readWindow offered code n table low high inside
    obtain ⟨⟨-, raised, port, lane⟩, -, idle, -⟩ := offered
    have joined : (s.dev.windowAsked rest o).joinFetches = s.dev.windowAsked rest o := Device.joinFetches_none _ raised
    refine ⟨fun busy => ?_, fun g k free ring slot => ?_, fun g free ring beyond => ?_⟩
    · rw [asked, Device.settle_of_settled]
      · rfl
      · exact ⟨raised, fun free => absurd free busy, lane⟩
    · obtain ⟨fetches, writes, window⟩ := port free
      have granted := (s.dev.windowAsked rest o).grant_window o.windowRead free fetches writes rfl
      have found := Device.grantWindow_found (d := s.dev.windowAsked rest o) (w := o.windowRead) ring slot
      rw [asked, Device.settle, joined, granted, found]
      refine congrArg Host.Outcome.next (State.with_dev (Eq.trans (Device.upArbitrate_kept _ lane) ?_))
      rw [recordWord1_eq]
      unfold Device.windowAsked
      rw [← window]
      rfl
    · obtain ⟨fetches, writes, window⟩ := port free
      have granted := (s.dev.windowAsked rest o).grant_window o.windowRead free fetches writes rfl
      have absent := Device.grantWindow_absent (d := s.dev.windowAsked rest o) (w := o.windowRead) ring beyond rfl
      rw [asked, Device.settle, joined, granted, absent]
      refine congrArg Host.Outcome.next (State.with_dev (Eq.trans (Device.upArbitrate_replied _
        (List.append_ne_nil_of_right_ne_nil _ (List.cons_ne_nil _ _)) fun free => (lane free).2) ?_))
      unfold Device.windowAsked Device.finishExec Device.reply Device.pushReply
      dsimp only
      rw [← window, ← idle]
      rfl
  · intro s w record0 record1 addr h working service exec_ window room
    obtain ⟨pin, raised, -, lane⟩ := working
    have reach : installed s.dev.ou.memory (w.span addr).1 (w.span addr).2 = true := by
      rw [installed, decide_eq_true_eq]
      refine le_trans (le_of_eq ?_) room
      simp only [WindowRead.span]
      omega
    have run : exec .windowReadComplete s = .next { s with dev := (s.dev.windowDone w record0 record1 addr).settle } := by
      refine Eq.trans ?_ (State.run_released s (fun d => d.windowDone w record0 record1 addr) pin)
      change execWindowReadComplete s = _
      simp only [execWindowReadComplete, service, reach, if_true]
    have done : s.dev.windowDone w record0 record1 addr = ({ s.dev with ls := { s.dev.ls with service := none } } : Device).finishExec h .ok
        ((List.range w.count).map (fun k => windowWord s.dev.mem record0 record1 addr (w.word + k))) := by
      simp only [Device.windowDone, exec_]
    have freed := Device.settle_freed (s.dev.windowDone w record0 record1 addr) (by rw [done]; exact raised) (by rw [done]; rfl)
      (by rw [done]; exact window)
    rw [run, freed, done]
    refine congrArg Host.Outcome.next (State.with_dev (Eq.trans (Device.upArbitrate_replied _
      (List.append_ne_nil_of_right_ne_nil _ (List.cons_ne_nil _ _)) fun free => (lane free).2) ?_))
    simp only [windowWord_eq]
    rfl

end Sys2Proof.Machine
end

section
/-! PROOFS. ALERT, HEAD_ATTENTION and READ_CLEAR (R31 to R35). -/

namespace Sys2Proof.Machine

/-! ### Words by their bits -/

theorem word_ne_zero_iff (x : Word) : x ≠ 0 ↔ ∃ i : Nat, x.getLsbD i = true := by
  constructor
  · intro ne
    by_contra none_
    refine ne (BitVec.eq_of_getLsbD_eq fun i _ => ?_)
    rw [not_exists] at none_
    rw [Bool.eq_false_iff.2 (none_ i)]
    exact (BitVec.getLsbD_zero).symm
  · rintro ⟨i, bit⟩ rfl
    simp at bit

/-- Some bit of a word is left clear by a mask. -/
theorem unmasked_iff (x m : Word) : (x &&& ~~~m != 0) = true ↔ ∃ i : Nat, x.getLsbD i = true ∧ m.getLsbD i = false := by
  rw [bne_iff_ne, word_ne_zero_iff]
  refine exists_congr fun i => ?_
  rw [BitVec.getLsbD_and, BitVec.getLsbD_not, Bool.and_eq_true, Bool.and_eq_true, Bool.not_eq_true', decide_eq_true_eq]
  refine ⟨fun h => ⟨h.1, h.2.2⟩, fun h => ⟨h.1, BitVec.lt_of_getLsbD h.1, h.2⟩⟩

theorem OrderUnit.headAttention_iff (u : OrderUnit) : u.headAttention = true ↔
    ∃ (p : PortIx) (i : Nat), (vget u.headEvents p).getLsbD i = true ∧ (vget u.headMasks p).getLsbD i = false := by
  simp only [OrderUnit.headAttention, List.any_eq_true, mem_allPorts, true_and, unmasked_iff]

/-! ### Clearing a counter (R35) -/

theorem toList_getD {n : Nat} (v : Vector Word n) (i : Nat) : v.toList.getD i 0 = if h : i < n then vget v ⟨i, h⟩ else 0 := by
  split
  · next low =>
    rw [List.getD_eq_getElem _ _ (by simpa using low)]
    simp [vget]
  · next high => rw [List.getD_eq_default _ _ (by simpa using high)]

/-- The word of a counter by its place in table 7. -/
theorem OrderUnit.clearCounter_word (u : OrderUnit) (i j : Nat) (low : i < 576) (low' : j < 576) :
    (u.clearCounter i).counterWord j = if j = i then 0 else u.counterWord j := by
  unfold OrderUnit.counterWord OrderUnit.clearCounter
  simp only [toList_getD]
  by_cases dev : i < 64
  · rw [if_pos dev]
    by_cases known : i < 19
    · rw [dif_pos known]
      by_cases dev' : j < 64
      · rw [if_pos dev', if_pos dev']
        by_cases known' : j < 19
        · rw [dif_pos known', dif_pos known', vget_vset]
          simp [Fin.ext_iff]
        · simp [known']
      · simp [dev', show j ≠ i by omega]
    · rw [dif_neg known]
      by_cases eq : j = i
      · simp [eq, dev, known]
      · simp [eq]
  · rw [if_neg dev]
    by_cases known : (i - 64) % 32 < 13
    · rw [dif_pos known]
      by_cases dev' : j < 64
      · simp [dev', show j ≠ i by omega]
      · rw [if_neg dev', if_neg dev', vget_vmod]
        by_cases same : portN ((j - 64) / 32) = portN ((i - 64) / 32)
        · rw [if_pos same]
          have place : (j - 64) % 32 = (i - 64) % 32 ↔ j = i := by
            rw [portN_of_lt, portN, Fin.val_ofNat] at same
            omega
          by_cases known' : (j - 64) % 32 < 13
          · rw [dif_pos known', dif_pos known', vget_vset, same]
            simp [Fin.ext_iff, place]
          · simp [known']
        · have ne : j ≠ i := fun eq => same (by rw [eq])
          rw [if_neg same, if_neg ne]
    · rw [dif_neg known]
      by_cases eq : j = i
      · simp [eq, dev, known]
      · simp [eq]

/-- What clearing leaves: every register but the counters. -/
theorem OrderUnit.clearCounter_same (u : OrderUnit) (i : Nat) :
    u.clearCounter i = { u with devCounts := (u.clearCounter i).devCounts, headCounts := (u.clearCounter i).headCounts } := by
  unfold OrderUnit.clearCounter
  split
  · split <;> rfl
  · split <;> rfl

/-- What the clearing of every index keeps, the clearing of a range keeps. -/
theorem OrderUnit.clearRange_keeps {Q : OrderUnit → Prop} (clear : OrderUnit → Nat → OrderUnit) (start count : Nat)
    (step : ∀ v i, start ≤ i → i < start + count → Q v → Q (clear v i)) (u : OrderUnit) (begun : Q u) : Q (u.clearRange clear start count) := by
  unfold OrderUnit.clearRange
  have fold : ∀ (l : List Nat), (∀ k ∈ l, k < count) → ∀ v, Q v → Q (l.foldl (fun v k => clear v (start + k)) v) := by
    intro l
    induction l with
    | nil => intro _ v holds; exact holds
    | cons k l ih =>
      intro low v holds
      exact ih (fun j mem => low j (List.mem_cons_of_mem k mem)) _
        (step v _ (Nat.le_add_right _ _) (Nat.add_lt_add_left (low k List.mem_cons_self) _) holds)
  exact fold _ (fun k mem => List.mem_range.1 mem) u begun

/-- A range cleared one index further. -/
theorem OrderUnit.clearRange_succ (u : OrderUnit) (clear : OrderUnit → Nat → OrderUnit) (start count : Nat) :
    u.clearRange clear start (count + 1) = clear (u.clearRange clear start count) (start + count) := by
  rw [OrderUnit.clearRange, List.range_succ, List.foldl_append]
  rfl

theorem OrderUnit.clearCounters_word (u : OrderUnit) (start count : Nat) (inside : start + count ≤ 576) (j : Nat) (low : j < 576) :
    (u.clearRange OrderUnit.clearCounter start count).counterWord j =
      if start ≤ j ∧ j < start + count then 0 else u.counterWord j := by
  induction count with
  | zero => exact (if_neg (by omega)).symm
  | succ count ih =>
    rw [OrderUnit.clearRange_succ, OrderUnit.clearCounter_word _ _ _ (by omega) low, ih (by omega)]
    by_cases eq : j = start + count
    · rw [if_pos eq, if_pos (by omega)]
    · rw [if_neg eq]
      exact if_congr (by omega) rfl rfl

/-! ### Clearing the events (R33) -/

theorem OrderUnit.clearEvents_same (u : OrderUnit) (i : Nat) :
    u.clearEvents i = { u with devEvents := (u.clearEvents i).devEvents, headEvents := (u.clearEvents i).headEvents } := by
  unfold OrderUnit.clearEvents
  split
  · rfl
  · split <;> rfl

theorem OrderUnit.clearEvents_devEvents (u : OrderUnit) (i : Nat) : (u.clearEvents i).devEvents = if i = 0 then 0 else u.devEvents := by
  unfold OrderUnit.clearEvents
  split
  · change u.devEvents &&& ~~~(u.devEvents ||| _) = 0
    generalize (if u.headAttention = true then (1 : Word) else 0) = attention
    refine BitVec.eq_of_getLsbD_eq fun k _ => ?_
    rw [BitVec.getLsbD_and, BitVec.getLsbD_not, BitVec.getLsbD_or]
    cases u.devEvents.getLsbD k <;> simp
  · split <;> rfl

theorem OrderUnit.clearEvents_headEvents (u : OrderUnit) (i : Nat) (p : PortIx) :
    vget (u.clearEvents i).headEvents p = if i = p.val + 1 then 0 else vget u.headEvents p := by
  have low := p.isLt
  unfold OrderUnit.clearEvents
  split
  · next zero => rw [if_neg (by omega)]
  · split
    · next nonzero heads =>
      rw [vget_vmod]
      have here : p = portN (i - 1) ↔ i = p.val + 1 := by
        rw [eq_comm, portN_of_lt]
        omega
      simp only [here, BitVec.and_not_self]
    · next beyond => rw [if_neg (by omega)]

theorem OrderUnit.clearEventRange_devEvents (u : OrderUnit) (start count : Nat) (some_ : 1 ≤ count) :
    (u.clearRange OrderUnit.clearEvents start count).devEvents = if start = 0 then 0 else u.devEvents := by
  induction count, some_ using Nat.le_induction with
  | base => exact u.clearEvents_devEvents (start + 0)
  | succ count low ih =>
    rw [OrderUnit.clearRange_succ, OrderUnit.clearEvents_devEvents, if_neg (by omega), ih]

theorem OrderUnit.clearEventRange_headEvents (u : OrderUnit) (start count : Nat) (p : PortIx) :
    vget (u.clearRange OrderUnit.clearEvents start count).headEvents p =
      if start ≤ p.val + 1 ∧ p.val + 1 < start + count then 0 else vget u.headEvents p := by
  induction count with
  | zero => exact (if_neg (by omega)).symm
  | succ count ih =>
    rw [OrderUnit.clearRange_succ, OrderUnit.clearEvents_headEvents, ih]
    by_cases eq : start + count = p.val + 1
    · rw [if_pos eq, if_pos (by omega)]
    · rw [if_neg eq]
      exact if_congr (by omega) rfl rfl

/-- The counters or the events of a READ_CLEAR's range are cleared. -/
def Device.rangeCleared (d : Device) (o : OrderParcel) : Device :=
  { d with ou := d.ou.clearRange (if o.table = 7 then OrderUnit.clearCounter else OrderUnit.clearEvents) o.start o.count }

/-- Settles O26. -/
theorem readClearAndAlert : Obligations.ReadClearAndAlert := by
  unfold Obligations.ReadClearAndAlert
  refine ⟨fun d => ⟨fun released => ?_, fun plain => ?_⟩, fun s o rest offered code n low high inside => ?_⟩
  · rw [Device.alert, released, Bool.not_false, Bool.true_and]
    exact unmasked_iff _ _
  · change (d.ou.devEvents ||| if d.ou.headAttention then 1 else 0).getLsbD 0 = true ↔ _
    rw [BitVec.getLsbD_or, plain, Bool.false_or, ← OrderUnit.headAttention_iff]
    cases d.ou.headAttention <;> simp
  · have ofCode : o.isCode 3 = true := by rw [OrderParcel.isCode, code]; rfl
    have fits : o.fits = true := by simp [OrderParcel.fits, bodyFits, code, n]
    have cleared : ∀ (kind : OrderParcel → Bool), kind o = true → o.table = 7 ∨ o.table = 8 →
        s.run (fun d => d.takeOrder kind (checkedBody readClearOrder)) = .next { s with dev := { s.dev with
          cp := s.dev.cp.answered rest o.hdr .ok ((List.range o.count).map (fun k => s.dev.readWord o.table (o.start + k)))
          ou := s.dev.ou.clearRange (if o.table = 7 then OrderUnit.clearCounter else OrderUnit.clearEvents) o.start o.count } } := by
      intro kind ofKind either
      refine (State.run_takeOrder s o rest offered kind _ ofKind).trans (congrArg Host.Outcome.next (State.with_dev ?_))
      rw [checkedBody, if_pos fits, readClearOrder, if_neg (by omega), if_neg]
      · exact Device.settle_pushReply ((s.dev.withoutFront rest).rangeCleared o) s.dev offered.1.2 rfl rfl rfl o.hdr .ok _ false
      · rw [Bool.not_eq_true', ← Bool.not_eq_true, Device.rangeOk_iff _ _ _ (by omega)]
        exact fun bad => bad.elim (by omega) fun bad => bad.elim (by omega) fun outside => outside inside
    intro reply inRange
    refine ⟨fun table => ?_, fun table => ?_⟩
    · have run := cleared OrderParcel.isClearCounters (by simp [OrderParcel.isClearCounters, ofCode, fits, table]) (.inl table)
      rw [if_pos table] at run
      have bound : o.start + o.count ≤ 576 := by rw [table] at inside; exact inside
      have words := s.dev.ou.clearCounters_word o.start o.count bound
      refine ⟨_, run, rfl, State.with_dev ?_, fun i small within => ?_, fun i small without => ?_⟩
      · have same := OrderUnit.clearRange_keeps (Q := fun v => v = { s.dev.ou with devCounts := v.devCounts, headCounts := v.headCounts })
          OrderUnit.clearCounter o.start o.count (fun v i _ _ same => by rw [OrderUnit.clearCounter_same, same]) s.dev.ou rfl
        rw [← same]
      · exact (words i small).trans (if_pos within)
      · exact (words i small).trans (if_neg without)
    · have run := cleared OrderParcel.isClearEvents (by simp [OrderParcel.isClearEvents, ofCode, fits, table]) (.inr table)
      rw [if_neg (by omega)] at run
      refine ⟨_, run, rfl, State.with_dev ?_, fun p => s.dev.ou.clearEventRange_headEvents o.start o.count p⟩
      have same := OrderUnit.clearRange_keeps (Q := fun v => v = { s.dev.ou with devEvents := v.devEvents, headEvents := v.headEvents })
        OrderUnit.clearEvents o.start o.count (fun v i _ _ same => by rw [OrderUnit.clearEvents_same, same]) s.dev.ou rfl
      rw [← s.dev.ou.clearEventRange_devEvents o.start o.count low, ← same]

end Sys2Proof.Machine
end

section
/-! PROOFS. A stored word reads back (R28, R30, R31, R40, R46, R162). -/

namespace Sys2Proof.Machine

/-! ### Words and codes -/

theorem wordN_toNat {n : Nat} (low : n ≤ 4294967295) : (wordN n).toNat = n := by
  rw [wordN, BitVec.toNat_ofNat, Nat.mod_eq_of_lt (by omega)]

theorem senseOf_code {n : Nat} (low : n ≤ 1) : (senseOf n).code = n := by interval_cases n <;> rfl
theorem sourceOf_code {n : Nat} (low : n ≤ 2) : (sourceOf n).code = n := by interval_cases n <;> rfl
theorem polarityOf_code {n : Nat} (low : n ≤ 1) : (polarityOf n).code = n := by interval_cases n <;> rfl
theorem neighbourKindOf_code {n : Nat} (low : n ≤ 2) : (neighbourKindOf n).code = n := by interval_cases n <;> rfl
theorem testModeOf_code {n : Nat} (low : n ≤ 4) : (testModeOf n).code = n := by interval_cases n <;> rfl
theorem flagN_beq_one {n : Nat} (low : n ≤ 1) : flagN (n == 1) = n := by interval_cases n <;> rfl
theorem portN_val {n : Nat} (low : n ≤ 15) : (portN n).val = n := by rw [portN, Fin.val_ofNat, Nat.mod_eq_of_lt (by omega)]

theorem clamp_of_low (lo hi v : Nat) : clamp lo hi v = max lo (min v hi) := by rw [clamp, Nat.min_comm]

/-- A field that holds its number brought into a range: the word read, and the flag. -/
theorem clamped_reads {lo hi v : Nat} {back : Word} {flag : Bool} (range : lo ≤ hi) (low : hi ≤ 4294967295)
    (word : back = wordN (clamp lo hi v)) (changed : flag = (clamp lo hi v != v)) :
    back.toNat = max lo (min v hi) ∧ (flag = true ↔ back.toNat ≠ v) := by
  have value : back.toNat = clamp lo hi v := by rw [word, wordN_toNat ((clamp_le lo hi v range).trans low)]
  rw [value, changed, bne_iff_ne, clamp_of_low]
  exact ⟨rfl, Iff.rfl⟩

/-! ### Table 1 -/

/-- What a word of table 1 reads after `v` was written. -/
def jobBack (i v : Nat) : Nat :=
  if i = 0 then (if v = 0 then 0 else min v 65536) else
    max ([0, 0, 0, 0, 0, 0, 0, 1, 0, 1].getD i 0) (min v ([0, 1, 15, 1, 2, 1, 255, 65535, 65535, 16777215].getD i 0))

theorem JobSettings.store_word (s : JobSettings) {i : Nat} (low : i < 10) (w : Word) :
    ((s.store i w).1.word i).toNat = jobBack i w.toNat ∧
      ((s.store i w).2 = true ↔ ((s.store i w).1.word i).toNat ≠ w.toNat) := by
  interval_cases i
  · by_cases zero : w.toNat = 0
    · simp [JobSettings.store, JobSettings.word, jobBack, zero, wordN]
    · have reads := clamped_reads (lo := 1) (hi := 65536) (v := w.toNat) (back := (s.store 0 w).1.word 0) (flag := (s.store 0 w).2)
        (by decide) (by decide) (by simp [JobSettings.store, JobSettings.word, zero]) (by simp [JobSettings.store, zero])
      refine ⟨reads.1.trans ?_, reads.2⟩
      rw [jobBack, if_pos rfl, if_neg zero]
      omega
  · exact clamped_reads (by decide) (by decide) (congrArg wordN (senseOf_code (clamp_le 0 1 _ (by decide)))) rfl
  · exact clamped_reads (by decide) (by decide) rfl rfl
  · exact clamped_reads (by decide) (by decide) (congrArg wordN (flagN_beq_one (clamp_le 0 1 _ (by decide)))) rfl
  · exact clamped_reads (by decide) (by decide) (congrArg wordN (sourceOf_code (clamp_le 0 2 _ (by decide)))) rfl
  · exact clamped_reads (by decide) (by decide) (congrArg wordN (polarityOf_code (clamp_le 0 1 _ (by decide)))) rfl
  · exact clamped_reads (by decide) (by decide) rfl rfl
  · exact clamped_reads (by decide) (by decide) rfl rfl
  · exact clamped_reads (by decide) (by decide) rfl rfl
  · exact clamped_reads (by decide) (by decide) rfl rfl

theorem JobSettings.store_other (s : JobSettings) {i j : Nat} (low : i < 10) (low' : j < 10) (ne : j ≠ i) (w : Word) :
    (s.store i w).1.word j = s.word j := by
  interval_cases i
  · by_cases zero : w.toNat = 0
    · simp only [JobSettings.store, zero, if_true]
      interval_cases j
      · exact absurd rfl ne
      all_goals rfl
    · simp only [JobSettings.store, zero, if_false]
      interval_cases j
      · exact absurd rfl ne
      all_goals rfl
  all_goals interval_cases j <;> first | rfl | exact absurd rfl ne

/-! ### Table 2 -/

/-- The field of a descriptor's word that was written. -/
def headWritten (i : Nat) (w : Word) : Nat :=
  if i = 7 ∨ i = 10 then w.toNat else fieldN w 0 ([1, 8, 16, 8, 16, 8, 8, 32, 8, 8, 32, 16, 8, 16, 16, 9].getD i 0)

/-- What a descriptor's word reads after `w` was written. -/
def headBack (i : Nat) (w : Word) : Nat :=
  if i = 0 then fieldN w 0 1
  else if i = 1 then min (fieldN w 0 8) 7
  else if i = 2 then fieldN w 0 16
  else if i = 3 then max 1 (min (fieldN w 0 8) 4)
  else if i = 4 then max 16 (min (fieldN w 0 16 / 16 * 16) 1024)
  else if i = 5 ∨ i = 8 then min (fieldN w 0 8) 2
  else if i = 6 ∨ i = 9 then min (fieldN w 0 8) 15
  else if i = 7 ∨ i = 10 then w.toNat
  else if i = 11 then min (fieldN w 0 16) 2047
  else if i = 12 then max 1 (min (fieldN w 0 8) 64)
  else if i = 13 then min (fieldN w 0 8) 4 + 256 * max 2 (min (fieldN w 8 8) 64)
  else if i = 14 then fieldN w 0 16
  else fieldN w 0 9

theorem fieldN_lt (w : Word) (lo n : Nat) : fieldN w lo n < 2 ^ n := Nat.mod_lt _ (Nat.two_pow_pos n)

/-- A word that holds a number, and the flag that says whether it differs from the number written. -/
theorem number_reads {n written : Nat} {back : Word} {flag : Bool} (low : n ≤ 4294967295) (word : back = wordN n)
    (changed : flag = true ↔ n ≠ written) : back.toNat = n ∧ (flag = true ↔ back.toNat ≠ written) := by
  have value : back.toNat = n := by rw [word, wordN_toNat low]
  rw [value]
  exact ⟨rfl, changed⟩

/-- A field that holds its number as written. -/
theorem kept_reads {v : Nat} {back : Word} (low : v ≤ 4294967295) (word : back = wordN v) :
    back.toNat = v ∧ (false = true ↔ back.toNat ≠ v) := number_reads low word (by simp)

/-- The two bytes of a half word. -/
theorem fieldN_halves (w : Word) (n : Nat) : fieldN w 0 (8 + n) = fieldN w 0 8 + 256 * fieldN w 8 n := by
  simp only [fieldN, pow_zero, Nat.div_one]
  rw [pow_add, Nat.mod_mul]
  norm_num

theorem HeadDescr.store_word (h : HeadDescr) {i : Nat} (low : i < 16) (w : Word) :
    ((h.store i w).1.word i).toNat = headBack i w ∧
      ((h.store i w).2 = true ↔ ((h.store i w).1.word i).toNat ≠ headWritten i w) := by
  have bit := fieldN_lt w 0 1
  have lower := fieldN_lt w 0 8
  have upper := fieldN_lt w 8 8
  have half := fieldN_lt w 0 16
  have whole := w.isLt
  have halves := fieldN_halves w 8
  have nine := fieldN_halves w 1
  have bit8 := fieldN_lt w 8 1
  norm_num at bit lower upper half whole halves nine bit8
  have bitLow : fieldN w 0 1 ≤ 4294967295 := by omega
  have halfLow : fieldN w 0 16 ≤ 4294967295 := by omega
  have wordLow : w.toNat ≤ 4294967295 := by omega
  have index : ∀ hi, hi ≤ 15 → clamp 0 hi (fieldN w 0 8) ≤ 15 := fun hi le => (clamp_le 0 hi _ (Nat.zero_le _)).trans le
  interval_cases i
  · exact kept_reads bitLow (congrArg wordN (flagN_beq_one bit))
  · have reads := clamped_reads (lo := 0) (hi := 7) (v := fieldN w 0 8) (by decide) (by decide)
      (congrArg wordN (Nat.mod_eq_of_lt (Nat.lt_succ_of_le (clamp_le 0 7 _ (by decide))))) (rfl : (h.store 1 w).2 = _)
    exact ⟨reads.1.trans (Nat.zero_max _), reads.2⟩
  · exact kept_reads halfLow rfl
  · exact clamped_reads (by decide) (by decide) rfl rfl
  · have reads := number_reads (n := clampStep 16 16 1024 (fieldN w 0 16)) (written := fieldN w 0 16)
      (back := (h.store 4 w).1.word 4) (flag := (h.store 4 w).2) ((clamp_le 16 1024 _ (by decide)).trans (by decide)) rfl bne_iff_ne
    exact ⟨reads.1.trans (clamp_of_low _ _ _), reads.2⟩
  · have reads := clamped_reads (lo := 0) (hi := 2) (v := fieldN w 0 8) (by decide) (by decide)
      (congrArg wordN (neighbourKindOf_code (clamp_le 0 2 _ (by decide)))) (rfl : (h.store 5 w).2 = _)
    exact ⟨reads.1.trans (Nat.zero_max _), reads.2⟩
  · have reads := clamped_reads (lo := 0) (hi := 15) (v := fieldN w 0 8) (by decide) (by decide)
      (congrArg wordN (portN_val (index 15 le_rfl))) (rfl : (h.store 6 w).2 = _)
    exact ⟨reads.1.trans (Nat.zero_max _), reads.2⟩
  · exact kept_reads wordLow rfl
  · have reads := clamped_reads (lo := 0) (hi := 2) (v := fieldN w 0 8) (by decide) (by decide)
      (congrArg wordN (neighbourKindOf_code (clamp_le 0 2 _ (by decide)))) (rfl : (h.store 8 w).2 = _)
    exact ⟨reads.1.trans (Nat.zero_max _), reads.2⟩
  · have reads := clamped_reads (lo := 0) (hi := 15) (v := fieldN w 0 8) (by decide) (by decide)
      (congrArg wordN (portN_val (index 15 le_rfl))) (rfl : (h.store 9 w).2 = _)
    exact ⟨reads.1.trans (Nat.zero_max _), reads.2⟩
  · exact kept_reads wordLow rfl
  · have reads := clamped_reads (lo := 0) (hi := 2047) (v := fieldN w 0 16) (by decide) (by decide) rfl (rfl : (h.store 11 w).2 = _)
    exact ⟨reads.1.trans (Nat.zero_max _), reads.2⟩
  · exact clamped_reads (by decide) (by decide) rfl rfl
  · have mode := clamp_le 0 4 (fieldN w 0 8) (by decide)
    have ladder := clamp_le 2 64 (fieldN w 8 8) (by decide)
    have reads := number_reads (n := clamp 0 4 (fieldN w 0 8) + 256 * clamp 2 64 (fieldN w 8 8)) (written := fieldN w 0 16)
      (back := (h.store 13 w).1.word 13) (flag := (h.store 13 w).2) (by omega)
      (congrArg (fun n => wordN (n + 256 * clamp 2 64 (fieldN w 8 8))) (testModeOf_code mode)) (by
        change ((clamp 0 4 (fieldN w 0 8) != fieldN w 0 8) || (clamp 2 64 (fieldN w 8 8) != fieldN w 8 8)) = true ↔ _
        rw [Bool.or_eq_true, bne_iff_ne, bne_iff_ne, halves]
        omega)
    refine ⟨reads.1.trans ?_, reads.2⟩
    rw [clamp_of_low, clamp_of_low, Nat.zero_max]
    rfl
  · exact kept_reads halfLow (congrArg wordN halves.symm)
  · refine kept_reads (v := fieldN w 0 9) (by omega) (congrArg wordN ?_)
    rw [nine]
    exact congrArg (fun n => fieldN w 0 8 + 256 * n) (flagN_beq_one bit8)

theorem HeadDescr.store_other (h : HeadDescr) {i j : Nat} (low : i < 16) (low' : j < 16) (ne : j ≠ i) (w : Word) :
    (h.store i w).1.word j = h.word j := by
  interval_cases i
  all_goals interval_cases j <;> first | rfl | exact absurd rfl ne

/-! ### Sparse maps -/

theorem lookup_of_risingFrom {α : Type} (k : Nat) (m : List (Nat × α)) (rise : risingFrom (some k) m = true) : lookup k m = none := by
  suffices bounded : ∀ (low : Nat), k ≤ low → risingFrom (some low) m = true → lookup k m = none from bounded k le_rfl rise
  clear rise
  induction m with
  | nil => intros; rfl
  | cons entry rest ih =>
    obtain ⟨a, x⟩ := entry
    intro low le rise
    simp only [risingFrom, Bool.and_eq_true, Option.all_some, decide_eq_true_eq] at rise
    rw [lookup, if_neg (by omega)]
    exact ih a (by omega) rise.2

theorem lookup_eraseKey {α : Type} (k j : Nat) (m : List (Nat × α)) (rise : rising m = true) :
    lookup j (eraseKey k m) = if j = k then none else lookup j m := by
  suffices general : ∀ low, risingFrom low m = true → lookup j (eraseKey k m) = if j = k then none else lookup j m from
    general none rise
  clear rise
  induction m with
  | nil => intros; simp [eraseKey, lookup]
  | cons entry rest ih =>
    obtain ⟨a, x⟩ := entry
    intro low rise
    simp only [risingFrom, Bool.and_eq_true] at rise
    by_cases hit : a = k
    · subst hit
      rw [eraseKey, if_pos rfl]
      by_cases eq : j = a
      · rw [if_pos eq, eq, lookup_of_risingFrom a rest rise.2]
      · rw [if_neg eq, lookup, if_neg (Ne.symm eq)]
    · rw [eraseKey, if_neg hit, lookup, lookup, ih _ rise.2]
      by_cases eq : a = j
      · rw [if_pos eq, if_pos eq, if_neg (eq ▸ hit)]
      · rw [if_neg eq, if_neg eq]

theorem numAt_numPut (m : List (Nat × Nat)) (k j x : Nat) (rise : rising m = true) :
    numAt (numPut m k x) j = if j = k then x else numAt m j := by
  unfold numAt numPut
  by_cases zero : x = 0
  · rw [if_pos zero, lookup_eraseKey k j m rise, zero]
    split <;> rfl
  · rw [if_neg zero, lookup_insertKey]
    split <;> rfl

/-! ### Tables 3 to 6 within a block -/

theorem vset_getD {n : Nat} (v : Vector Nat n) (i j x : Nat) (low : i < n) (low' : j < n) :
    (vset v ⟨i, low⟩ x).toList.getD j 0 = if j = i then x else v.toList.getD j 0 := by
  have read : ∀ u : Vector Nat n, u.toList.getD j 0 = vget u ⟨j, low'⟩ := fun u => by
    rw [List.getD_eq_getElem _ _ (by simpa using low')]
    simp [vget]
  rw [read, read, vget_vset]
  simp only [Fin.ext_iff]

/-- A number brought into a range from zero, as the word read and the flag. -/
theorem capped_reads {hi v : Nat} {back : Word} {flag : Bool} (low : hi ≤ 4294967295) (word : back = wordN (clamp 0 hi v))
    (changed : flag = (clamp 0 hi v != v)) : back.toNat = min v hi ∧ (flag = true ↔ back.toNat ≠ v) := by
  obtain ⟨value, flagged⟩ := clamped_reads (Nat.zero_le hi) low word changed
  exact ⟨value.trans (Nat.zero_max _), flagged⟩

theorem storeRow_word (rows : Vector RowDescr 4) (i : Nat) (w : Word) :
    (rowWord (storeRow rows i w).1 i).toNat = min w.toNat (if i % 2 = 0 then 65535 else 255) ∧
      ((storeRow rows i w).2 = true ↔ (rowWord (storeRow rows i w).1 i).toNat ≠ w.toNat) := by
  by_cases even : i % 2 = 0
  · rw [if_pos even]
    refine capped_reads (by decide) ?_ (by simp only [storeRow, if_pos even])
    simp only [rowWord, storeRow, if_pos even, vget_vmod, if_true]
  · rw [if_neg even]
    refine capped_reads (by decide) ?_ (by simp only [storeRow, if_neg even])
    simp only [rowWord, storeRow, if_neg even, vget_vmod, if_true]

theorem storeRow_other (rows : Vector RowDescr 4) {i j : Nat} (low : i < 8) (low' : j < 8) (ne : j ≠ i) (w : Word) :
    rowWord (storeRow rows i w).1 j = rowWord rows j := by
  have apart : rowN (j / 2) = rowN (i / 2) → j / 2 = i / 2 := fun eq => by
    have := congrArg Fin.val eq
    simp only [rowN, Fin.val_ofNat] at this
    omega
  unfold rowWord storeRow
  by_cases same : rowN (j / 2) = rowN (i / 2)
  · have block := apart same
    by_cases even : i % 2 = 0
    · have odd : ¬ j % 2 = 0 := by omega
      simp only [if_pos even, if_neg odd, same, vget_vmod, if_true]
    · have even' : j % 2 = 0 := by omega
      simp only [if_neg even, if_pos even', same, vget_vmod, if_true]
  · by_cases even : i % 2 = 0
    · simp only [if_pos even, vget_vmod, if_neg same]
    · simp only [if_neg even, vget_vmod, if_neg same]

theorem PlaneTable.store_word (t : PlaneTable) {i j : Nat} (low : i < 272) (low' : j < 272) (w : Word) (rise : rising t.dither = true) :
    (t.store i w).1.word j = if j = i then wordN (clamp 0 (if i < 16 then 3 else 255) w.toNat) else t.word j := by
  unfold PlaneTable.store PlaneTable.word PlaneTable.code
  by_cases tone : i < 16
  · rw [if_pos tone, if_pos tone]
    have index : Fin.ofNat 16 i = ⟨i, tone⟩ := Fin.ext (Nat.mod_eq_of_lt tone)
    by_cases tone' : j < 16
    · simp only [if_pos tone', index, vset_getD _ _ _ _ tone tone']
      split <;> rfl
    · simp only [if_neg tone']
      rw [if_neg (show j ≠ i by omega)]
  · rw [if_neg tone, if_neg tone]
    by_cases tone' : j < 16
    · simp only [if_pos tone']
      rw [if_neg (show j ≠ i by omega)]
    · simp only [if_neg tone', numAt_numPut _ _ _ _ rise]
      by_cases eq : j = i
      · rw [if_pos eq, if_pos (by rw [eq])]
      · rw [if_neg eq, if_neg (by omega)]

theorem PlaneTable.store_reads (t : PlaneTable) {i : Nat} (low : i < 272) (w : Word) (rise : rising t.dither = true) :
    ((t.store i w).1.word i).toNat = min w.toNat (if i < 16 then 3 else 255) ∧
      ((t.store i w).2 = true ↔ ((t.store i w).1.word i).toNat ≠ w.toNat) := by
  refine capped_reads (by split <;> decide) ((t.store_word low low w rise).trans (if_pos rfl)) ?_
  unfold PlaneTable.store
  by_cases tone : i < 16
  · simp only [if_pos tone]
  · simp only [if_neg tone]

theorem segmentOf_word (w : Word) :
    ((segmentOf w).1.word).toNat = fieldN w 0 8 + 256 * min (fieldN w 8 7) 63 +
      (if fieldN w 8 7 = 0 then 0 else 32768 * fieldN w 15 1) := by
  have duration := fieldN_lt w 0 8
  have magnitude := clamp_le 0 63 (fieldN w 8 7) (by decide)
  have sign := fieldN_lt w 15 1
  norm_num at duration sign
  have value : flagN (fieldN w 15 1 == 1 && clamp 0 63 (fieldN w 8 7) != 0) = if fieldN w 8 7 = 0 then 0 else fieldN w 15 1 := by
    by_cases zero : fieldN w 8 7 = 0
    · rw [if_pos zero, zero]
      simp [clamp, flagN]
    · have kept : (clamp 0 63 (fieldN w 8 7) != 0) = true := by
        rw [bne_iff_ne, clamp_of_low]
        omega
      rw [if_neg zero, kept, Bool.and_true, flagN_beq_one sign]
  simp only [segmentOf, Segment.word, value]
  rw [wordN_toNat (by split <;> omega), clamp_of_low]
  split <;> omega

theorem segmentOf_clamped (w : Word) : (segmentOf w).2 = true ↔ 63 < fieldN w 8 7 := by
  simp only [segmentOf, bne_iff_ne, clamp_of_low]
  omega

/-! ### Blocks of a table -/

theorem portN_eq_iff {m n : Nat} (low : m < 16) (low' : n < 16) : portN m = portN n ↔ m = n := by
  rw [Fin.ext_iff, portN, portN, Fin.val_ofNat, Fin.val_ofNat, Nat.mod_eq_of_lt low, Nat.mod_eq_of_lt low']

theorem ofNat8_eq_iff {m n : Nat} (low : m < 8) (low' : n < 8) : Fin.ofNat 8 m = Fin.ofNat 8 n ↔ m = n := by
  rw [Fin.ext_iff, Fin.val_ofNat, Fin.val_ofNat, Nat.mod_eq_of_lt low, Nat.mod_eq_of_lt low']

/-! ### Words of the other tables -/

theorem Device.storeWord_otherTable (d : Device) {table table' : Nat} (i j : Nat) (w : Word) (low : 1 ≤ table) (high : table ≤ 6)
    (low' : 1 ≤ table') (high' : table' ≤ 6) (ne : table' ≠ table) :
    (d.storeWord table i w).1.readWord table' j = d.readWord table' j := by
  interval_cases table
  all_goals interval_cases table' <;> first | rfl | exact absurd rfl ne

/-! ### The stored word, table by table -/

theorem Device.storeWord_job (d : Device) {i : Nat} (low : i < 10) (w : Word) :
    (((d.storeWord 1 i w).1.readWord 1 i).toNat = jobBack i w.toNat ∧
      ((d.storeWord 1 i w).2 = true ↔ ((d.storeWord 1 i w).1.readWord 1 i).toNat ≠ w.toNat)) ∧
    ∀ j < 10, j ≠ i → (d.storeWord 1 i w).1.readWord 1 j = d.readWord 1 j :=
  ⟨d.tab.job.store_word low w, fun _ low' ne => d.tab.job.store_other low low' ne w⟩

theorem Device.storeWord_descr (d : Device) {i : Nat} (low : i < 256) (w : Word) :
    (((d.storeWord 2 i w).1.readWord 2 i).toNat = headBack (i % 16) w ∧
      ((d.storeWord 2 i w).2 = true ↔ ((d.storeWord 2 i w).1.readWord 2 i).toNat ≠ headWritten (i % 16) w)) ∧
    ∀ j < 256, j ≠ i → (d.storeWord 2 i w).1.readWord 2 j = d.readWord 2 j := by
  have stored : ∀ j, (d.storeWord 2 i w).1.readWord 2 j = ((if portN (j / 16) = portN (i / 16) then
      ((d.head (portN (i / 16))).store (i % 16) w).1 else d.head (portN (j / 16)))).word (j % 16) := fun j =>
    congrArg (HeadDescr.word · (j % 16)) (vget_vset _ _ _ _)
  have inBlock := (d.head (portN (i / 16))).store_word (Nat.mod_lt i (by decide : 16 > 0)) w
  refine ⟨?_, fun j low' ne => ?_⟩
  · rw [stored, if_pos rfl]
    exact inBlock
  · rw [stored]
    split
    · next same =>
      rw [portN_eq_iff (by omega) (by omega)] at same
      rw [HeadDescr.store_other _ (by omega) (by omega) (by omega), ← same]
      rfl
    · rfl

theorem Device.storeWord_rows (d : Device) {i : Nat} (low : i < 128) (w : Word) :
    (((d.storeWord 3 i w).1.readWord 3 i).toNat = min w.toNat (if i % 2 = 0 then 65535 else 255) ∧
      ((d.storeWord 3 i w).2 = true ↔ ((d.storeWord 3 i w).1.readWord 3 i).toNat ≠ w.toNat)) ∧
    ∀ j < 128, j ≠ i → (d.storeWord 3 i w).1.readWord 3 j = d.readWord 3 j := by
  have stored : ∀ j, (d.storeWord 3 i w).1.readWord 3 j = rowWord (if portN (j / 8) = portN (i / 8) then
      (storeRow (vget d.tab.rows (portN (i / 8))) (i % 8) w).1 else vget d.tab.rows (portN (j / 8))) (j % 8) := fun j =>
    congrArg (rowWord · (j % 8)) (vget_vset _ _ _ _)
  have inBlock := storeRow_word (vget d.tab.rows (portN (i / 8))) (i % 8) w
  refine ⟨?_, fun j low' ne => ?_⟩
  · rw [stored, if_pos rfl]
    rw [show i % 8 % 2 = i % 2 by omega] at inBlock
    exact inBlock
  · rw [stored]
    split
    · next same =>
      rw [portN_eq_iff (by omega) (by omega)] at same
      rw [storeRow_other _ (by omega) (by omega) (by omega), ← same]
      rfl
    · rfl

theorem Device.storeWord_planes (d : Device) {i : Nat} (low : i < 2176) (w : Word) (rise : d.tab.MapsRise) :
    (((d.storeWord 4 i w).1.readWord 4 i).toNat = min w.toNat (if i % 272 < 16 then 3 else 255) ∧
      ((d.storeWord 4 i w).2 = true ↔ ((d.storeWord 4 i w).1.readWord 4 i).toNat ≠ w.toNat)) ∧
    ∀ j < 2176, j ≠ i → (d.storeWord 4 i w).1.readWord 4 j = d.readWord 4 j := by
  have stored : ∀ j, (d.storeWord 4 i w).1.readWord 4 j = (if Fin.ofNat 8 (j / 272) = Fin.ofNat 8 (i / 272) then
      ((vget d.tab.planes (Fin.ofNat 8 (i / 272))).store (i % 272) w).1 else vget d.tab.planes (Fin.ofNat 8 (j / 272))).word (j % 272) :=
    fun j => congrArg (PlaneTable.word · (j % 272)) (vget_vset _ _ _ _)
  have canonical := rise.dither (Fin.ofNat 8 (i / 272))
  refine ⟨?_, fun j low' ne => ?_⟩
  · rw [stored, if_pos rfl]
    exact PlaneTable.store_reads _ (Nat.mod_lt i (by decide)) w canonical
  · rw [stored]
    split
    · next same =>
      rw [ofNat8_eq_iff (by omega) (by omega)] at same
      rw [PlaneTable.store_word _ (by omega) (by omega) w canonical, if_neg (by omega), ← same]
      rfl
    · rfl

theorem Device.storeWord_nozzles (d : Device) {i : Nat} (low : i < 32768) (w : Word) (rise : d.tab.MapsRise) :
    (((d.storeWord 5 i w).1.readWord 5 i).toNat = min w.toNat 3 ∧
      ((d.storeWord 5 i w).2 = true ↔ ((d.storeWord 5 i w).1.readWord 5 i).toNat ≠ w.toNat)) ∧
    ∀ j < 32768, j ≠ i → (d.storeWord 5 i w).1.readWord 5 j = d.readWord 5 j := by
  have stored : ∀ j < 32768, (d.storeWord 5 i w).1.readWord 5 j = if j = i then wordN (clamp 0 3 w.toNat) else d.readWord 5 j := by
    intro j low'
    have block : (d.storeWord 5 i w).1.readWord 5 j = wordN (numAt (if portN (j / 2048) = portN (i / 2048) then
        numPut (vget d.tab.nozzles (portN (i / 2048))) (i % 2048) (clamp 0 3 w.toNat)
        else vget d.tab.nozzles (portN (j / 2048))) (j % 2048)) :=
      congrArg (fun m => wordN (numAt m (j % 2048))) ((vget_vmod _ _ _ _).trans (by split <;> simp_all))
    rw [block]
    split
    · next same =>
      rw [numAt_numPut _ _ _ _ (rise.nozzles _), ← same]
      rw [portN_eq_iff (by omega) (by omega)] at same
      by_cases eq : j = i
      · rw [if_pos eq, if_pos (by rw [eq])]
      · rw [if_neg eq, if_neg (by omega)]
        rfl
    · next apart => rw [if_neg (fun eq => apart (by rw [eq]))]; rfl
  refine ⟨?_, fun j low' ne => (stored j low').trans (if_neg ne)⟩
  exact capped_reads (by decide) ((stored i low).trans (if_pos rfl)) rfl

theorem Device.storeWord_waves (d : Device) {i : Nat} (low : i < 512) (w : Word) :
    (((d.storeWord 6 i w).1.readWord 6 i).toNat = fieldN w 0 8 + 256 * min (fieldN w 8 7) 63 +
        (if fieldN w 8 7 = 0 then 0 else 32768 * fieldN w 15 1) ∧
      ((d.storeWord 6 i w).2 = true ↔ 63 < fieldN w 8 7)) ∧
    ∀ j < 512, j ≠ i → (d.storeWord 6 i w).1.readWord 6 j = d.readWord 6 j := by
  have stored : ∀ j < 512, (d.storeWord 6 i w).1.readWord 6 j = if j = i then (segmentOf w).1.word else d.readWord 6 j := by
    intro j low'
    simp only [Device.storeWord, Device.readWord, Tables.store, segmentAt, Nat.reduceEqDiff, if_false]
    rw [vget_vmod]
    by_cases port : portN (j / 32) = portN (i / 32)
    · have portEq := (portN_eq_iff (by omega) (by omega)).1 port
      rw [if_pos port, vget_vmod]
      by_cases wave : rowN (j % 32 / 8) = rowN (i % 32 / 8)
      · have waveEq : j % 32 / 8 = i % 32 / 8 := by
          have := congrArg Fin.val wave
          simp only [rowN, Fin.val_ofNat] at this
          omega
        rw [if_pos wave, vget_vset]
        by_cases eq : j = i
        · rw [if_pos eq, if_pos (by rw [eq])]
        · rw [if_neg eq, if_neg]
          intro index
          have := congrArg Fin.val index
          simp only [Fin.val_ofNat] at this
          omega
      · rw [if_neg wave, if_neg (fun eq => wave (by rw [eq]))]
    · rw [if_neg port, if_neg (fun eq => port (by rw [eq]))]
  refine ⟨⟨?_, segmentOf_clamped w⟩, fun j low' ne => (stored j low').trans (if_neg ne)⟩
  rw [stored i low, if_pos rfl, segmentOf_word]

/-! ### The masks -/

theorem Device.storeWord_mask (d : Device) (i : Nat) (w : Word) :
    (d.storeWord 8 i w).1 = { d with ou := d.ou.storeMask i w } := rfl

theorem OrderUnit.storeMask_word (u : OrderUnit) {i j : Nat} (low : 17 ≤ i) (high : i ≤ 33) (low' : 17 ≤ j) (high' : j ≤ 33) (w : Word) :
    (u.storeMask i w).eventWord j = if j = i then w &&& (if i = 17 then 0x1FFF else 0x7F) else u.eventWord j := by
  have place : ∀ v : OrderUnit, v.eventWord j = if j = 17 then v.devMask else vget v.headMasks (portN (j - 18)) := fun v => by
    rw [OrderUnit.eventWord, if_neg (by omega), if_neg (by omega)]
  rw [place, place, OrderUnit.storeMask]
  by_cases dev : i = 17
  · by_cases dev' : j = 17
    · rw [if_pos dev, if_pos dev, if_pos dev', if_pos (dev'.trans dev.symm)]; rfl
    · rw [if_pos dev, if_neg dev', if_neg dev', if_neg (fun eq => dev' (eq.trans dev))]
  · by_cases dev' : j = 17
    · rw [if_neg dev, if_pos dev', if_pos dev', if_neg (fun eq => dev (eq.symm.trans dev'))]
    · rw [if_neg dev, if_neg dev, if_neg dev', if_neg dev', vget_vset]
      simp only [portN_eq_iff (show j - 18 < 16 by omega) (show i - 18 < 16 by omega)]
      by_cases eq : j = i
      · rw [if_pos eq, if_pos (by rw [eq])]; rfl
      · rw [if_neg eq, if_neg (by omega)]

/-- Settles O21: each table's word by the field it holds, the other words by the block and the table they lie in. -/
theorem storedWordReadsBack : Obligations.StoredWordReadsBack := by
  refine ⟨fun d table i w rise low high within => ?_, fun d i w low high => ?_⟩
  · have maps : d.tab.MapsRise := ⟨rise.2.1, fun p => (rise.2.2 p).1⟩
    have others : (∀ j, withinTable table j 1 → j ≠ i → (d.storeWord table i w).1.readWord table j = d.readWord table j) →
        ∀ table' j, 1 ≤ table' → table' ≤ 6 → withinTable table' j 1 → (table', j) ≠ (table, i) →
          (d.storeWord table i w).1.readWord table' j = d.readWord table' j := by
      intro same table' j low' high' within' ne
      by_cases eq : table' = table
      · subst eq
        exact same j within' (fun eq => ne (by rw [eq]))
      · exact d.storeWord_otherTable i j w low high low' high' eq
    interval_cases table
    · obtain ⟨⟨value, flag⟩, same⟩ := d.storeWord_job (i := i) within w
      exact ⟨flag, others same, fun _ => value, nofun, nofun, nofun, nofun, nofun⟩
    · obtain ⟨⟨value, flag⟩, same⟩ := d.storeWord_descr (i := i) within w
      refine ⟨?_, others same, nofun, fun _ => value, nofun, nofun, nofun, nofun⟩
      refine flag.trans (Iff.of_eq (congrArg _ ?_))
      simp only [headWritten, fieldN, ne_eq, not_true, false_or]
    · obtain ⟨⟨value, flag⟩, same⟩ := d.storeWord_rows (i := i) within w
      exact ⟨flag, others same, nofun, nofun, fun _ => value, nofun, nofun, nofun⟩
    · obtain ⟨⟨value, flag⟩, same⟩ := d.storeWord_planes (i := i) within w maps
      exact ⟨flag, others same, nofun, nofun, nofun, fun _ => value, nofun, nofun⟩
    · obtain ⟨⟨value, flag⟩, same⟩ := d.storeWord_nozzles (i := i) within w maps
      exact ⟨flag, others same, nofun, nofun, nofun, nofun, fun _ => value, nofun⟩
    · obtain ⟨⟨value, flag⟩, same⟩ := d.storeWord_waves (i := i) within w
      exact ⟨flag, others same, nofun, nofun, nofun, nofun, nofun, fun _ => value⟩
  · have word : ∀ j, 17 ≤ j → j ≤ 33 → (d.ou.storeMask i w).eventWord j =
        if j = i then w &&& (if i = 17 then 0x1FFF else 0x7F) else d.ou.eventWord j := fun j low' high' =>
      d.ou.storeMask_word low high low' high' w
    refine ⟨rfl, ?_, (word i low high).trans (if_pos rfl), fun j low' high' ne => (word j low' high').trans (if_neg ne)⟩
    rw [d.storeWord_mask, OrderUnit.storeMask]
    split <;> rfl

end Sys2Proof.Machine
end

section
/-! PROOFS. Row blocks, frames and the nibbles of the forward lane (R166 to R168). -/

namespace Sys2Proof.Machine

/-! ### Row blocks -/

theorem byteCodes_codesByte {a b c e : Nat} (ha : a ≤ 3) (hb : b ≤ 3) (hc : c ≤ 3) (he : e ≤ 3) :
    byteCodes (codesByte a b c e) = [a, b, c, e] := by
  interval_cases a <;> interval_cases b <;> interval_cases c <;> interval_cases e <;> rfl

theorem packCodes_roundTrip (cs : List Nat) (low : ∀ c ∈ cs, c ≤ 3) (whole : cs.length % 4 = 0) :
    (packCodes cs).flatMap byteCodes = cs ∧ (packCodes cs).length = cs.length / 4 := by
  induction cs using packCodes.induct with
  | case1 a b c e rest ih =>
    simp only [List.forall_mem_cons] at low
    obtain ⟨ha, hb, hc, he, low⟩ := low
    have length : (a :: b :: c :: e :: rest).length = rest.length + 4 := rfl
    obtain ⟨codes, bytes⟩ := ih low (by omega)
    refine ⟨?_, ?_⟩
    · rw [packCodes, List.flatMap_cons, codes, byteCodes_codesByte ha hb hc he]
      rfl
    · rw [packCodes, List.length_cons, bytes, length]
      omega
  | case2 cs short =>
    match cs with
    | [] => exact ⟨rfl, rfl⟩
    | [_] | [_, _] | [_, _, _] => exact absurd whole (by norm_num)
    | a :: b :: c :: e :: rest => exact (short a b c e rest rfl).elim

/-! ### Compression -/

/-- The runs of a frame's symbols have one byte each (R166), and no other start stands among them. -/
def FrameSym.Fits : FrameSym → Prop
  | .start _ _ => False
  | .code _ => True
  | .zeroRun c => c ≤ 255

theorem zeroSyms_fits (z : Nat) : ∀ x ∈ zeroSyms z, x.Fits := by
  intro x mem
  rw [zeroSyms, List.mem_append] at mem
  rcases mem with run | last
  · rw [List.eq_of_mem_replicate run]
    exact Nat.le_refl 255
  · split at last
    · rw [List.mem_singleton.1 last]
      exact show z % 263 - 8 ≤ 255 by omega
    · rw [List.eq_of_mem_replicate last]
      trivial

theorem zeroSyms_code (z : Nat) : ∀ c, FrameSym.code c ∈ zeroSyms z → c = 0 := by
  intro c mem
  rw [zeroSyms, List.mem_append] at mem
  rcases mem with run | last
  · exact absurd (List.eq_of_mem_replicate run) nofun
  · split at last
    · exact absurd (List.mem_singleton.1 last) nofun
    · exact FrameSym.code.inj (List.eq_of_mem_replicate last)

theorem replicate_flatMap_codes (n : Nat) (x : FrameSym) (m : Nat) (codes : x.codes = List.replicate m 0) :
    (List.replicate n x).flatMap FrameSym.codes = List.replicate (n * m) 0 := by
  induction n with
  | zero => rw [Nat.zero_mul]; rfl
  | succ n ih => rw [List.replicate_succ, List.flatMap_cons, ih, codes, List.replicate_append_replicate, Nat.succ_mul, Nat.add_comm]

theorem zeroSyms_codes (z : Nat) : (zeroSyms z).flatMap FrameSym.codes = List.replicate z 0 := by
  rw [zeroSyms, List.flatMap_append, replicate_flatMap_codes _ _ 263 rfl]
  by_cases run : 8 ≤ z % 263
  · rw [if_pos run, List.flatMap_singleton, FrameSym.codes, List.replicate_append_replicate]
    congr 1
    omega
  · rw [if_neg run, replicate_flatMap_codes _ _ 1 rfl, List.replicate_append_replicate]
    congr 1
    omega

theorem zeroSyms_count (z : Nat) : (zeroSyms z).count (.code 0) < 8 := by
  rw [zeroSyms, List.count_append, List.count_replicate]
  split
  · next eq => exact absurd eq (by decide)
  · split
    · next run => rw [List.count_singleton, if_neg (by simp)]; decide
    · next short => rw [List.count_replicate_self]; omega

theorem compressFrom_codes (z : Nat) (cs : List Nat) : (compressFrom z cs).flatMap FrameSym.codes = List.replicate z 0 ++ cs := by
  induction cs generalizing z with
  | nil => rw [compressFrom, zeroSyms_codes, List.append_nil]
  | cons c cs ih =>
    rw [compressFrom]
    split
    · next zero => rw [ih, zero, List.replicate_succ', List.append_assoc]; rfl
    · rw [List.flatMap_append, List.flatMap_cons, zeroSyms_codes, ih]
      rfl

theorem compressFrom_fits (z : Nat) (cs : List Nat) : ∀ x ∈ compressFrom z cs, x.Fits := by
  induction cs generalizing z with
  | nil => exact zeroSyms_fits z
  | cons c cs ih =>
    rw [compressFrom]
    split
    · exact ih _
    · intro x mem
      rw [List.mem_append, List.mem_cons] at mem
      rcases mem with zeros | rfl | rest
      · exact zeroSyms_fits z x zeros
      · trivial
      · exact ih 0 x rest

/-- The codes sent as single symbols are codes of the frame, or zeros. -/
theorem compressFrom_code (z : Nat) (cs : List Nat) : ∀ c, FrameSym.code c ∈ compressFrom z cs → c = 0 ∨ c ∈ cs := by
  induction cs generalizing z with
  | nil => exact fun c mem => Or.inl (zeroSyms_code z c mem)
  | cons a cs ih =>
    intro c mem
    rw [compressFrom] at mem
    split at mem
    · exact (ih _ c mem).imp_right (List.mem_cons_of_mem a)
    · rw [List.mem_append, List.mem_cons] at mem
      rcases mem with zeros | here | rest
      · exact Or.inl (zeroSyms_code z c zeros)
      · exact Or.inr (FrameSym.code.inj here ▸ List.mem_cons_self)
      · exact (ih 0 c rest).imp_right (List.mem_cons_of_mem a)

/-- A run of one symbol does not reach across another symbol. -/
theorem replicate_infix_split {α : Type} {n : Nat} {a y : α} {xs ys : List α} (ne : y ≠ a)
    (run : List.replicate n a <:+: xs ++ y :: ys) : List.replicate n a <:+: xs ∨ List.replicate n a <:+: ys := by
  have ends : ∀ l : List α, (∀ x ∈ l, x = a) → l <+: y :: ys → l = [] := by
    intro l all pre
    cases l with
    | nil => rfl
    | cons x l => exact absurd ((List.cons_prefix_cons.1 pre).1.symm.trans (all x List.mem_cons_self)) ne
  rw [List.infix_append_iff, List.infix_cons_iff] at run
  rcases run with left | (start | right) | ⟨l₁, l₂, parts, suffix, pre⟩
  · exact Or.inl left
  · rw [ends _ (fun _ => List.eq_of_mem_replicate) start]
    exact Or.inl (List.nil_infix)
  · exact Or.inr right
  · have empty := ends l₂ (fun x mem => List.eq_of_mem_replicate (parts ▸ List.mem_append_right l₁ mem)) pre
    rw [parts, empty, List.append_nil]
    exact Or.inl suffix.isInfix

theorem zeroSyms_noLongRun (z : Nat) : ¬ List.replicate 8 (FrameSym.code 0) <:+: zeroSyms z := fun run => by
  have le := run.sublist.count_le (.code 0)
  rw [List.count_replicate_self] at le
  exact absurd (zeroSyms_count z) (by omega)

theorem compressFrom_noLongRun (z : Nat) (cs : List Nat) : ¬ List.replicate 8 (FrameSym.code 0) <:+: compressFrom z cs := by
  induction cs generalizing z with
  | nil => exact zeroSyms_noLongRun z
  | cons c cs ih =>
    rw [compressFrom]
    split
    · exact ih _
    · next nonzero => exact fun run =>
        (replicate_infix_split (fun eq => nonzero (FrameSym.code.inj eq)) run).elim (zeroSyms_noLongRun z) (ih 0)

/-! ### Nibbles -/

theorem nibbleCodes_single {c : Nat} (low : c ≤ 4) (rest : List Nat) : nibbleCodes (c :: rest) = c :: nibbleCodes rest := by
  interval_cases c <;> rw [nibbleCodes] <;> nofun

theorem nibbleCodes_form (x : FrameSym) (rest : List Nat) (fits : x.Fits) (low : ∀ c, x = .code c → c ≤ 4) :
    nibbleCodes (x.form ++ rest) = x.codes ++ nibbleCodes rest := by
  cases x with
  | start _ _ => exact fits.elim
  | code c => exact nibbleCodes_single (low c rfl) rest
  | zeroRun c =>
    have byte : 16 * (c / 16 % 16) + c % 16 + 8 = c + 8 := by
      have : c ≤ 255 := fits
      omega
    change List.replicate (16 * (c / 16 % 16) + c % 16 + 8) 0 ++ nibbleCodes rest = _
    rw [byte]
    rfl

theorem nibbleCodes_forms (xs : List FrameSym) (fits : ∀ x ∈ xs, x.Fits) (low : ∀ c, FrameSym.code c ∈ xs → c ≤ 4) :
    nibbleCodes (xs.flatMap FrameSym.form) = xs.flatMap FrameSym.codes := by
  induction xs with
  | nil => rfl
  | cons x xs ih =>
    rw [List.flatMap_cons, List.flatMap_cons,
      nibbleCodes_form x _ (fits x List.mem_cons_self) (fun c eq => low c (eq ▸ List.mem_cons_self)),
      ih (fun y mem => fits y (List.mem_cons_of_mem x mem)) (fun c mem => low c (List.mem_cons_of_mem x mem))]

theorem nibblesOf_six (t : Nat) : nibblesOf 6 t =
    [t / 1048576 % 16, t / 65536 % 16, t / 4096 % 16, t / 256 % 16, t / 16 % 16, t % 16] := by
  simp only [nibblesOf, Nat.div_div_eq_div_mul, List.nil_append, List.cons_append, Nat.reduceMul]

theorem segmentForms_length (segs : List Segment) : (segs.flatMap Segment.form).length = 4 * segs.length := by
  induction segs with
  | nil => rfl
  | cons g segs ih => rw [List.flatMap_cons, List.length_append, ih, List.length_cons]; simp only [Segment.form, List.length_append,
      nibblesOf_length]; omega

/-- Settles O56: the codes by the recursions of packing and compression, the forms by their definitions. -/
theorem codesRoundTrip : Obligations.CodesRoundTrip := by
  refine ⟨packCodes_roundTrip, fun r t cs => ⟨rfl, ?_, ?_, ?_, fun low => ?_⟩, rfl, fun r t => ?_, fun c => ⟨rfl, rfl⟩,
    fun r => ⟨rfl, rfl⟩, rfl, fun i segs => ⟨rfl, ?_⟩, fun hp => rfl⟩
  · exact compressFrom_codes 0 cs
  · intro c mem
    exact compressFrom_fits 0 cs (.zeroRun c) ((List.mem_cons.1 mem).resolve_left FrameSym.noConfusion)
  · intro run
    have apart : FrameSym.start r (t.toNat % 16777216) ≠ .code 0 := FrameSym.noConfusion
    have split := replicate_infix_split (xs := []) apart run
    exact split.elim (fun empty => by simp at empty) (compressFrom_noLongRun 0 cs)
  · refine (nibbleCodes_forms (compressFrom 0 cs) (compressFrom_fits 0 cs) fun c mem => ?_).trans (compressFrom_codes 0 cs)
    rcases compressFrom_code 0 cs c mem with zero | code
    · exact zero ▸ Nat.zero_le 4
    · exact low c code
  · exact congrArg (fun ns => 0xD :: r.val :: ns) (nibblesOf_six t)
  · change (0xF :: 9 :: i.val :: segs.toList.flatMap Segment.form).length = 35
    simp only [List.length_cons, segmentForms_length, Vector.length_toList]

end Sys2Proof.Machine
end

section
/-! PROOFS. Head ports: what a port, its rows and a LOAD_WAVES become, and the commands of the return lanes and the timers (R158 to R165,
R173 to R176). -/

namespace Sys2Proof.Machine

/-! ### The Line Store when rows stop -/

/-- Fetches whose data is to be dropped leave nothing for the arbiters to choose. -/
theorem Device.settled_of_killed {d e : Device} {sel : PortIx → RowIx → Bool} (settled : d.settled)
    (ls : e.ls = d.ls ∨ e.ls = d.ls.killFetches sel) (cp : e.cp = d.cp) : e.settled := by
  rcases ls with same | killed
  · exact Device.settled_congr settled same (by rw [cp]) (by rw [cp]) (by rw [cp])
  · obtain ⟨raised, port, lane⟩ := settled
    refine ⟨?_, fun free => ?_, by rw [cp]; exact lane⟩
    · rw [killed, LineStore.killFetches, raised]
      rfl
    · rw [killed, LineStore.killFetches] at free ⊢
      obtain ⟨fetches, writes, window⟩ := port (Option.map_eq_none_iff.1 free)
      exact ⟨by rw [fetches]; rfl, writes, window⟩

/-! ### Rows and ports that stop (R153, R159 to R161, R176) -/

theorem Pipeline.leaveReady_eq_emptied (q : Pipeline) : q.leaveReady = q.emptied := rfl

/-- The pipelines with those of one port emptied. -/
def emptiedRows (rf : Vector (Vector Pipeline 4) 16) (p : PortIx) : Vector (Vector Pipeline 4) 16 :=
  vmod rf p (vmap Pipeline.leaveReady)

theorem rget_emptiedRows (rf : Vector (Vector Pipeline 4) 16) (p p' : PortIx) (r : RowIx) :
    rget (emptiedRows rf p) p' r = if p' = p then (rget rf p' r).emptied else rget rf p' r := by
  rw [emptiedRows, rget_vmod]
  split
  · exact vget_vmap _ r _
  · rfl

/-- What leaving READY makes of port `p`'s rows and of the Line Store, where it happens. -/
theorem Device.pipe_of_emptied {d e : Device} {p : PortIx} {b : Bool} (rf : e.rf = if b then emptiedRows d.rf p else d.rf)
    (p' : PortIx) (r : RowIx) : e.pipe p' r = if p' = p ∧ b = true then (d.pipe p' r).emptied else d.pipe p' r := by
  rw [Device.pipe, rf]
  cases b with
  | false => simp only [Bool.false_eq_true, if_false, and_false]; rfl
  | true => simp only [if_true, and_true]; exact rget_emptiedRows d.rf p p' r

theorem HeadPort.silenced_eq_quench (hp : HeadPort) (st : PortState) : hp.quench st = hp.silenced st := rfl

theorem staysAtLeave_eq : Token.staysAtLeave = fun k => match k with
    | .discard _ => true
    | .fire _ => false
    | .tickleAll => false
    | .waveform _ _ => false := by
  funext t
  cases t <;> rfl

theorem notWaveform_eq : Token.notWaveform = fun k => match k with
    | .waveform _ _ => false
    | .fire _ => true
    | .discard _ => true
    | .tickleAll => true := by
  funext t
  cases t <;> rfl

theorem HeadPort.loadEnded_eq_endLoad (hp : HeadPort) (st : PortState) : hp.endLoad st = hp.loadEnded st := by
  rw [HeadPort.endLoad, notWaveform_eq]
  rfl

/-- A DISCARD for every enabled row. -/
theorem Device.enabledDiscards_eq (d : Device) (p : PortIx) : (allRows.filter (fun r => d.rowEnabled p r)).map Token.discard =
    if (d.head p).enabled then (allRows.filter (fun r => decide (r.val < (d.head p).rowCount))).map Token.discard else [] := by
  cases on : (d.head p).enabled with
  | false => simp [Device.rowEnabled, on]
  | true => simp [Device.rowEnabled, on]

theorem Device.leaveReady_eq (d : Device) (p : PortIx) (st : PortState) : d.leaveReady p st = { d with
    hp := vset d.hp p ((d.port p).left (d.head p).rowCount (d.head p).enabled st)
    rf := emptiedRows d.rf p
    ls := d.ls.killFetches (fun q _ => q == p) } := by
  have port : (d.port p).left (d.head p).rowCount (d.head p).enabled st = { d.port p with
      state := st
      progress := none
      frames := []
      tokens := (d.port p).tokens.filter Token.staysAtLeave ++ (allRows.filter (fun r => d.rowEnabled p r)).map Token.discard
      tickleAt := none } := by
    rw [d.enabledDiscards_eq, staysAtLeave_eq]
    rfl
  rw [port]
  rfl

theorem Device.quenchPort_eq (d : Device) (p : PortIx) (st : PortState) : d.quenchPort p st = { d with
    hp := vset d.hp p ((d.port p).silenced st)
    rf := if (d.port p).state = .ready then emptiedRows d.rf p else d.rf
    ls := if (d.port p).state = .ready then d.ls.killFetches (fun q _ => q == p) else d.ls } := by
  rw [Device.quenchPort]
  split <;> rfl

/-- A parking condition makes the port leave READY. -/
def Device.leavesReady (d : Device) (p : PortIx) : Bool := (d.head p).autoPark && (d.port p).state == .ready

theorem Device.autoPark_eq (d : Device) (p : PortIx) : d.autoPark p = { d with
    hp := vset d.hp p ((d.port p).parkedBy (d.head p))
    rf := if d.leavesReady p then emptiedRows d.rf p else d.rf
    ls := if d.leavesReady p then d.ls.killFetches (fun q _ => q == p) else d.ls } := by
  have same : d = { d with hp := vset d.hp p (d.port p) } := by rw [show vset d.hp p (d.port p) = d.hp from vset_vget d.hp p]
  unfold Device.autoPark HeadPort.parkedBy Device.leavesReady
  cases park : (d.head p).autoPark with
  | false =>
    simp only [Bool.false_eq_true, if_false, if_true, Bool.false_and]
    exact same
  | true =>
    cases state : (d.port p).state <;> simp only [if_true, Bool.true_eq_false, if_false, Bool.true_and]
    case disabled => exact same
    case down => exact same
    case parked => exact same
    case unloaded => rfl
    case loading =>
      rw [← HeadPort.loadEnded_eq_endLoad]
      rfl
    case ready => exact d.leaveReady_eq p .parked

theorem Device.autoPark_settled {d : Device} (settled : d.settled) (p : PortIx) : (d.autoPark p).settled := by
  rw [d.autoPark_eq]
  refine Device.settled_of_killed (sel := fun q _ => q == p) settled ?_ rfl
  cases d.leavesReady p
  · exact Or.inl rfl
  · exact Or.inr rfl

/-! ### The end of a LOAD_WAVES (R165) -/

theorem Device.checkLoads_goesOn {d : Device} (goesOn : (∀ h, d.ou.exec ≠ some (.loadWaves h)) ∨ ∃ p, (d.port p).state = .loading) :
    d.checkLoads = d := by
  rcases goesOn with other | ⟨p, loading⟩
  · rw [Device.checkLoads]
    split
    · next h exec => exact absurd exec (other h)
    · rfl
  · exact d.checkLoads_loading (List.any_eq_true.2 ⟨p, mem_allPorts p, beq_iff_eq.2 loading⟩)

theorem Device.checkLoads_ends {d : Device} {h : OrderHeader} (exec : d.ou.exec = some (.loadWaves h))
    (ended : ∀ p, (d.port p).state ≠ .loading) : d.checkLoads = d.finishExec h .ok d.statusWords := by
  refine d.checkLoads_ended h exec (List.any_eq_false.2 fun p _ loading => ended p (beq_iff_eq.1 loading))

theorem loadsAnswered_of_same {a a' b : Device} (exec : a'.ou.exec = a.ou.exec) (cp : a'.cp = a.cp) (answered : loadsAnswered a' b) :
    loadsAnswered a b := by
  unfold loadsAnswered at answered ⊢
  rw [exec, cp] at answered
  exact answered

/-- After ports changed, a LOAD_WAVES with no load left is answered; a change `f` of a port that keeps its state and its status word may
follow. -/
theorem Device.settle_loads {e : Device} (settled : e.settled) (p : PortIx) {f : HeadPort → HeadPort}
    (state : ∀ hp, (f hp).state = hp.state) (word : ∀ hp, (f hp).statusWord = hp.statusWord) :
    ∃ (cp : ChainPort) (exec : Option Exec),
      (e.checkLoads.modPort p f).settle = { e with hp := vmod e.hp p f, cp := cp, ou := { e.ou with exec := exec } } ∧
      loadsAnswered e { e with hp := vmod e.hp p f, cp := cp, ou := { e.ou with exec := exec } } := by
  have port : ∀ q, vget (vmod e.hp p f) q = if q = p then f (e.port q) else e.port q := fun q => vget_vmod _ _ _ _
  have states : ∀ q, (vget (vmod e.hp p f) q).state = (e.port q).state := fun q => by
    rw [port]
    split
    · exact state _
    · rfl
  have words : ∀ q, (vget (vmod e.hp p f) q).statusWord = (e.port q).statusWord := fun q => by
    rw [port]
    split
    · exact word _
    · rfl
  by_cases goesOn : (∀ h, e.ou.exec ≠ some (.loadWaves h)) ∨ ∃ p, (e.port p).state = .loading
  · refine ⟨e.cp, e.ou.exec, ?_, fun _ => ⟨rfl, rfl⟩, fun h exec ended => ?_⟩
    · rw [Device.checkLoads_goesOn goesOn]
      exact Device.settle_of_settled _ (Device.settled_congr settled rfl rfl rfl rfl)
    · rcases goesOn with other | ⟨q, loading⟩
      · exact absurd exec (other h)
      · exact absurd ((states q).trans loading) (ended q)
  · rw [not_or, not_forall, not_exists] at goesOn
    obtain ⟨⟨h, exec⟩, ended⟩ := goesOn
    rw [not_not] at exec
    refine ⟨{ e.cp with
        replies := e.cp.replies ++ [answer e.cp.chainId h .ok e.statusWords]
        upSending := some (e.cp.upSending.getD .replyQueue) }, none, ?_, fun still => ?_, fun h' exec' _ => ⟨rfl, ?_⟩⟩
    · rw [Device.checkLoads_ends exec ended]
      exact Device.settle_pushReply ({ e with hp := vmod e.hp p f, ou := { e.ou with exec := none } }) e settled rfl rfl rfl h .ok _ false
    · rcases still with other | ⟨q, loading⟩
      · exact absurd exec (other h)
      · exact absurd ((states q).symm.trans loading) (ended q)
    · rw [exec] at exec'
      cases exec'
      change _ ++ [answer e.cp.chainId h .ok (allPorts.map (fun q => (e.port q).statusWord))] = _
      simp only [← words]
      rfl

theorem Device.modPort_id (d : Device) (p : PortIx) : d.modPort p id = d := by
  rw [Device.modPort, show vmod d.hp p id = d.hp from vset_vget d.hp p]

/-- After ports changed, a LOAD_WAVES with no load left is answered. -/
theorem Device.settle_checkLoads {e : Device} (settled : e.settled) :
    ∃ (cp : ChainPort) (exec : Option Exec), e.checkLoads.settle = { e with cp := cp, ou := { e.ou with exec := exec } } ∧
      loadsAnswered e { e with cp := cp, ou := { e.ou with exec := exec } } := by
  obtain ⟨cp, exec, settles, answered⟩ := e.settle_loads settled 0 (f := id) (fun _ => rfl) (fun _ => rfl)
  rw [Device.modPort_id, show vmod e.hp 0 id = e.hp from vset_vget e.hp 0] at settles
  rw [show vmod e.hp 0 id = e.hp from vset_vget e.hp 0] at answered
  exact ⟨cp, exec, settles, answered⟩

/-- A command whose effect ends with the check of the loads. -/
theorem exec_checkLoads {c : Instr} {s : State} {e : Device} (settles : ofInputs c = false) (elsewhere : ofMemory c = false)
    (working : s.dev.working) (eff : s.dev.effect c = e.checkLoads) (settled : e.settled) :
    ∃ (cp : ChainPort) (exec' : Option Exec), exec c s = .next { s with dev := { e with cp := cp, ou := { e.ou with exec := exec' } } } ∧
      loadsAnswered e { e with cp := cp, ou := { e.ou with exec := exec' } } := by
  obtain ⟨cp, exec', result, answered⟩ := e.settle_checkLoads settled
  refine ⟨cp, exec', ?_, answered⟩
  rw [exec_eq_run c s settles elsewhere, State.run_released s _ working.1, eff, result]

/-! ### The idle tickle timer (R173) -/

theorem vset_vset {α : Type} {n : Nat} (v : Vector α n) (i : Fin n) (x y : α) : vset (vset v i x) i y = vset v i y :=
  vget_ext fun j => by
    rw [vget_vset, vget_vset, vget_vset]
    split <;> rfl

theorem due_some {now e : Nat} (reached : e ≤ now) : due now (some e) = true := by simpa [due] using reached

theorem not_due_iff {now : Nat} {t : Option Nat} : due now t = false ↔ ∀ e ∈ t, now < e := by
  cases t with
  | none => simp [due]
  | some e => simp [due]

/-- A port command that changes no more than its port. -/
theorem exec_port {c : Instr} {s : State} {p : PortIx} {hp : HeadPort} (settles : ofInputs c = false) (elsewhere : ofMemory c = false)
    (working : s.dev.working) (eff : s.dev.effect c = { s.dev with hp := vset s.dev.hp p hp }) :
    exec c s = .next { s with dev := { s.dev with hp := vset s.dev.hp p hp } } :=
  exec_of_settled c settles elsewhere working.1 eff (Device.settled_congr working.2 rfl rfl rfl rfl)

/-- A command without effect. -/
theorem exec_still {c : Instr} {s : State} (settles : ofInputs c = false) (elsewhere : ofMemory c = false) (working : s.dev.working)
    (eff : s.dev.effect c = s.dev) : exec c s = .next s :=
  exec_of_settled c settles elsewhere working.1 eff working.2

theorem Device.tickleAll_ready {d : Device} {p : PortIx} {e : Nat} (ready : (d.port p).state = .ready)
    (timer : (d.port p).tickleAt = some e) (reached : e ≤ d.now) : d.tickleAll p = { d with
      rf := vmod d.rf p (vmap (Pipeline.firedAt d.now))
      hp := vset d.hp p { d.port p with
        tokens := (d.port p).tokens ++ [.tickleAll]
        ages := []
        tickleAt := if (d.head p).tickleMs = 0 then none else some (d.now + (d.head p).tickleMs * 100000) } } := by
  have raised : d.raiseToken p .tickleAll = d.modPort p (fun hp => { hp with tokens := hp.tokens ++ [.tickleAll] }) := if_pos ready
  rw [Device.tickleAll, if_pos ⟨ready, timer ▸ due_some reached⟩, raised]
  simp only [Device.modPort, vmod, vget_vset_same, Device.port]
  congr 1
  exact vset_vset _ _ _ _

theorem Device.tickleAll_still {d : Device} {p : PortIx}
    (still : (d.port p).state ≠ .ready ∨ (d.port p).tickleAt = none ∨ ∃ e ∈ (d.port p).tickleAt, d.now < e) : d.tickleAll p = d := by
  refine if_neg fun ⟨ready, reached⟩ => ?_
  rcases still with other | idle | ⟨e, timer, early⟩
  · exact other ready
  · rw [idle] at reached
    cases reached
  · rw [timer] at reached
    exact absurd reached (by simpa [due] using early)

/-- Settles O53: by the cases of the timer's expiry. -/
theorem idleTickleRaised : Obligations.IdleTickleRaised := by
  intro s p working hp
  refine ⟨fun e ready timer reached => ?_, fun still => exec_still rfl rfl working (Device.tickleAll_still still)⟩
  refine ⟨_, exec_of_settled (.idleTickleExpiry p) rfl rfl working.1 (Device.tickleAll_ready ready timer reached)
    (Device.settled_congr working.2 rfl rfl rfl rfl), rfl, fun p' r => ?_⟩
  refine (rget_vmod s.dev.rf p p' r _).trans ?_
  split
  · exact vget_vmap _ r _
  · rfl

end Sys2Proof.Machine
end

section
/-! PROOFS. The messages of a head and its return lane (R158, R161, R165, R174 to R176). -/

namespace Sys2Proof.Machine

/-! ### Bytes that begin a message (R174) -/

theorem headMessage_ack (r : RowIx) : headMessage (BitVec.ofNat 8 (0x40 + r.val)) none = some (.ack r) := by
  fin_cases r <;> rfl

theorem headMessage_waveAck (i : Fin 4) : headMessage (BitVec.ofNat 8 (0x50 + i.val)) none = some (.waveAck i) := by
  fin_cases i <;> rfl

theorem headMessage_fault (code : Byte) : headMessage 0x60 (some code) = some (.fault code) := rfl

theorem no_ackRow {byte : Byte} (other : ∀ r : RowIx, byte.toNat ≠ 0x40 + r.val) :
    (headMessage byte none).bind HeadMessage.ackRow = none := by
  rw [headMessage]
  split
  · next group => exact absurd (show byte.toNat = 0x40 + (Fin.ofNat 4 byte.toNat).val by rw [Fin.val_ofNat]; omega) (other _)
  · split
    · rfl
    · split <;> rfl

theorem no_waveIndex {byte : Byte} (other : ∀ i : Fin 4, byte.toNat ≠ 0x50 + i.val) :
    (headMessage byte none).bind HeadMessage.waveIndex = none := by
  rw [headMessage]
  split
  · rfl
  · split
    · next group => exact absurd (show byte.toNat = 0x50 + (Fin.ofNat 4 byte.toNat).val by rw [Fin.val_ofNat]; omega) (other _)
    · split <;> rfl

theorem no_faultCode {first : Byte} {code : Option Byte} (other : first ≠ 0x60 ∨ code = none) :
    (headMessage first code).bind HeadMessage.faultCode = none := by
  rw [headMessage]
  split
  · rfl
  · split
    · rfl
    · split
      · next isFault =>
        rw [other.resolve_left (not_not.2 isFault)]
        rfl
      · rfl

/-! ### Ports that hear (R174) -/

theorem hears_eq_false_iff (st : PortState) : st.hears = false ↔ st = .disabled ∨ st = .down := by cases st <;> decide

theorem hears_of_ne {st : PortState} (disabled : st ≠ .disabled) (down : st ≠ .down) : st.hears = true := by
  rw [← Bool.not_eq_false, hears_eq_false_iff]
  exact fun is => is.elim disabled down

theorem Device.hear_deaf {d : Device} {p : PortIx} (deaf : (d.port p).state = .disabled ∨ (d.port p).state = .down)
    (f : Device → Device) : d.hear p f = d := by
  rw [Device.hear, (hears_eq_false_iff _).2 deaf, if_neg Bool.false_ne_true]

/-- The device after a return message reached a port. -/
def Device.heard (d : Device) (p : PortIx) : Device := { d with hp := vset d.hp p { d.port p with silent := 0 } }

theorem Device.hear_heard {d : Device} {p : PortIx} (hears : (d.port p).state.hears = true) (f : Device → Device) :
    d.hear p f = f (d.heard p) := if_pos hears

theorem Device.heard_port (d : Device) (p : PortIx) : (d.heard p).port p = { d.port p with silent := 0 } := vget_vset_same _ _ _

theorem Device.heard_settled {d : Device} (settled : d.settled) (p : PortIx) : (d.heard p).settled :=
  Device.settled_congr settled rfl rfl rfl rfl

/-! ### WAVE_ACK (R165) -/

theorem all_acked_iff (v : Vector Bool 4) : v.toList.all id = true ↔ ∀ k, vget v k = true := by
  rw [List.all_eq_true]
  constructor
  · exact fun all k => all _ (by simp [vget])
  · intro each x mem
    obtain ⟨i, low, rfl⟩ := List.getElem_of_mem mem
    have := each ⟨i, by simpa using low⟩
    simpa [vget] using this

theorem Device.waveAck_elsewhere {d : Device} {p : PortIx} (other : (d.port p).state ≠ .loading) (i : Fin 4) : d.waveAck p i = d :=
  if_neg other

/-- The device with a waveform of a port acknowledged. -/
theorem Device.waveAck_marks {d : Device} {p : PortIx} {i : Fin 4} (loading : (d.port p).state = .loading)
    (missing : ∃ k, vget (vset (d.port p).acked i true) k = false) :
    d.waveAck p i = { d with hp := vset d.hp p { d.port p with acked := vset (d.port p).acked i true } } := by
  have notAll : (vset (d.port p).acked i true).toList.all id = false := by
    rw [← Bool.not_eq_true, all_acked_iff]
    obtain ⟨k, no⟩ := missing
    exact fun all => by rw [all k] at no; cases no
  rw [Device.waveAck, if_pos loading]
  simp only [Device.modPort, vmod, Device.port, vget_vset_same] at notAll ⊢
  rw [if_neg (by rw [notAll]; decide)]

theorem Device.waveAck_completes {d : Device} {p : PortIx} {i : Fin 4} (loading : (d.port p).state = .loading)
    (all : ∀ k, vget (vset (d.port p).acked i true) k = true) :
    d.waveAck p i = ({ d with hp := vset d.hp p { d.port p with
      state := .ready
      silent := 0
      acked := vset (d.port p).acked i true
      ages := []
      lastRow := 3
      loadAt := none
      tickleAt := if (d.head p).tickleMs = 0 then none else some (d.now + (d.head p).tickleMs * 100000) } } : Device).checkLoads := by
  have every := (all_acked_iff _).2 all
  rw [Device.waveAck, if_pos loading]
  simp only [Device.modPort, vmod, Device.port, Device.enterReady, vget_vset_same, vset_vset] at every ⊢
  rw [if_pos every]
  rfl

/-- Settles O51: by the message that the bytes are, the port's state, and the waveforms acknowledged. -/
theorem headMessagesHeard : Obligations.HeadMessagesHeard := by
  intro s p working hp becomes ack waveAck
  have ackEffect : ∀ r, s.dev.effect (ack r) = s.dev.hear p id := fun r =>
    Device.receive_heard s.dev p _ none HeadMessage.ackRow (fun _ => id) r (by rw [headMessage_ack]; rfl)
  have waveEffect : ∀ i, s.dev.effect (waveAck i) = s.dev.hear p (fun d => d.waveAck p i) := fun i =>
    Device.receive_heard s.dev p _ none HeadMessage.waveIndex (fun i d => d.waveAck p i) i (by rw [headMessage_waveAck]; rfl)
  have heardPort := s.dev.heard_port p
  refine ⟨fun byte other => ?_, fun byte other => ?_, fun first code other => ?_, fun deaf => ⟨fun r => ?_, fun i => ?_, fun code => ?_⟩,
    fun disabled down r => ?_, fun states i => ?_, fun loading i missing => ?_, fun loading i all => ?_⟩
  · exact exec_still rfl rfl working (Device.receive_ignored s.dev p byte none HeadMessage.ackRow (fun _ => id) (no_ackRow other))
  · exact exec_still rfl rfl working
      (Device.receive_ignored s.dev p byte none HeadMessage.waveIndex (fun i d => d.waveAck p i) (no_waveIndex other))
  · exact exec_still rfl rfl working
      (Device.receive_ignored s.dev p first code HeadMessage.faultCode (fun c d => d.headFault p c) (no_faultCode other))
  · exact exec_still rfl rfl working ((ackEffect r).trans (Device.hear_deaf deaf _))
  · exact exec_still rfl rfl working ((waveEffect i).trans (Device.hear_deaf deaf _))
  · cases code with
    | none =>
      exact exec_still rfl rfl working
        (Device.receive_ignored s.dev p 0x60 none HeadMessage.faultCode (fun c d => d.headFault p c) (no_faultCode (Or.inr rfl)))
    | some code =>
      exact exec_still rfl rfl working ((Device.receive_heard s.dev p 0x60 (some code) HeadMessage.faultCode
        (fun c d => d.headFault p c) code rfl).trans (Device.hear_deaf deaf _))
  · exact exec_port rfl rfl working ((ackEffect r).trans (Device.hear_heard (hears_of_ne disabled down) _))
  · have hears : hp.state.hears = true := by rcases states with h | h | h <;> rw [h] <;> rfl
    have other : ((s.dev.heard p).port p).state ≠ .loading := by
      rw [heardPort]
      rcases states with h | h | h <;> exact fun eq => by cases h.symm.trans eq
    exact exec_port rfl rfl working ((waveEffect i).trans ((Device.hear_heard hears _).trans (Device.waveAck_elsewhere other i)))
  · have hears : hp.state.hears = true := by rw [loading]; rfl
    have marks := Device.waveAck_marks (d := s.dev.heard p) (p := p) (i := i) (by rw [heardPort]; exact loading) (by rw [heardPort]; exact missing)
    rw [heardPort] at marks
    refine exec_port rfl rfl working ((waveEffect i).trans ((Device.hear_heard hears _).trans (marks.trans ?_)))
    rw [show (s.dev.heard p).hp = vset s.dev.hp p { hp with silent := 0 } from rfl, vset_vset]
    rfl
  · have hears : hp.state.hears = true := by rw [loading]; rfl
    have completes := Device.waveAck_completes (d := s.dev.heard p) (p := p) (i := i) (by rw [heardPort]; exact loading) (by rw [heardPort]; exact all)
    rw [heardPort, show (s.dev.heard p).hp = vset s.dev.hp p { hp with silent := 0 } from rfl, vset_vset] at completes
    obtain ⟨cp, exec', result, answered⟩ := exec_checkLoads (c := waveAck i) rfl rfl working
      ((waveEffect i).trans ((Device.hear_heard hears _).trans completes)) (Device.settled_congr working.2 rfl rfl rfl rfl)
    exact ⟨_, result, rfl, rfl, rfl, loadsAnswered_of_same rfl rfl answered⟩

/-! ### FAULT and the load timer (R165, R175, R176) -/

theorem Device.headFault_eq (d : Device) (p : PortIx) (code : Byte) : d.headFault p code =
    (((({ d with hp := vset d.hp p { d.port p with fault := some code } } : Device).setHeadEvent p .headFault).countHead p .faults
      1).autoPark p).checkLoads := rfl

/-- A device with an event of a head set and counted. -/
def Device.reported (d : Device) (p : PortIx) (e : HeadEvent) (c : HeadCounter) : Device := (d.setHeadEvent p e).countHead p c 1

theorem headCounted_reported (d : Device) (p : PortIx) (e : HeadEvent) (c : HeadCounter) :
    headCounted d (d.reported p e c) (fun p' c' => if p' = p ∧ c' = c then 1 else 0) :=
  headCounted_countHead (d.setHeadEvent p e) p c 1

theorem Device.loadExpiry_early {d : Device} {p : PortIx} {e : Nat} (timer : (d.port p).loadAt = some e) (early : d.now < e) :
    d.loadExpiry p = d := by
  refine if_neg fun ⟨_, reached⟩ => ?_
  rw [timer] at reached
  exact absurd reached (by simpa [due] using early)

theorem Device.loadExpiry_elsewhere {d : Device} {p : PortIx} (other : (d.port p).state ≠ .loading ∨ (d.port p).loadAt = none) :
    d.loadExpiry p = d := by
  refine if_neg fun ⟨loading, reached⟩ => ?_
  rcases other with other | idle
  · exact other loading
  · rw [idle] at reached
    cases reached

theorem Device.loadExpiry_expires {d : Device} {p : PortIx} {e : Nat} (loading : (d.port p).state = .loading)
    (timer : (d.port p).loadAt = some e) (reached : e ≤ d.now) : d.loadExpiry p =
      (({ d with hp := vset d.hp p ((d.port p).loadEnded (if (d.head p).autoPark then .parked else .unloaded)) } : Device).reported p
        .headSilent .silences).checkLoads := by
  rw [← HeadPort.loadEnded_eq_endLoad]
  exact if_pos ⟨loading, timer ▸ due_some reached⟩

/-- Settles O52: the auto-park of a FAULT, and the cases of the load timer's expiry. -/
theorem faultAndLoadExpiry : Obligations.FaultAndLoadExpiry := by
  intro s p working hp park
  refine ⟨fun code disabled down => ?_, fun e loading timer => ⟨fun early => ?_, fun reached => ?_⟩, fun other => ?_⟩
  · let k : HeadPort := { hp with silent := 0, fault := some code }
    let a : Device := ({ s.dev with hp := vset s.dev.hp p k } : Device).reported p .headFault .faults
    have port : a.port p = k := vget_vset_same _ _ _
    have effect : s.dev.effect (.headFault p ⟨0x60, some code⟩) = (a.autoPark p).checkLoads := by
      refine (Device.receive_heard s.dev p 0x60 (some code) HeadMessage.faultCode (fun c d => d.headFault p c) code rfl).trans
        ((Device.hear_heard (hears_of_ne disabled down) _).trans ?_)
      rw [Device.headFault_eq, s.dev.heard_port, show (s.dev.heard p).hp = vset s.dev.hp p { hp with silent := 0 } from rfl, vset_vset]
      rfl
    have reported : a.settled := Device.settled_congr working.2 rfl rfl rfl rfl
    have settled : (a.autoPark p).settled := Device.autoPark_settled reported p
    obtain ⟨cp, exec', result, answered⟩ := exec_checkLoads rfl rfl working effect settled
    rw [a.autoPark_eq, port] at result answered
    refine ⟨_, result, rfl, rfl, headCounted_of_counts (headCounted_reported s.dev p .headFault .faults) rfl, vset_vset _ _ _ _,
      fun p' r => ?_, loadsAnswered_of_same rfl rfl answered⟩
    refine (Device.pipe_of_emptied (d := s.dev) (b := a.leavesReady p) rfl p' r).trans ?_
    simp only [Device.leavesReady, port, Bool.and_eq_true, beq_iff_eq]
    rfl
  · exact exec_still rfl rfl working (Device.loadExpiry_early timer early)
  · obtain ⟨cp, exec', result, answered⟩ := exec_checkLoads (c := .loadTimerExpiry p) rfl rfl working
      (Device.loadExpiry_expires loading timer reached) (Device.settled_congr working.2 rfl rfl rfl rfl)
    exact ⟨_, result, rfl, rfl, headCounted_of_counts (headCounted_reported s.dev p .headSilent .silences) rfl, rfl,
      loadsAnswered_of_same rfl rfl answered⟩
  · exact exec_still rfl rfl working (Device.loadExpiry_elsewhere other)

/-! ### The return lane (R158, R161) -/

theorem Device.laneLost_lost {d : Device} {p : PortIx} (lost : (d.port p).sync = .lost) : d.laneLost p = d := if_pos lost

theorem Device.laneLost_silent {d : Device} {p : PortIx} (sync : (d.port p).sync = .inSync)
    (silent : (d.port p).state = .disabled ∨ (d.port p).state = .down) :
    d.laneLost p = { d with hp := vset d.hp p { d.port p with sync := .lost } } := by
  rw [Device.laneLost, if_neg (by rw [sync]; decide)]
  rcases silent with state | state <;> rw [state] <;> rfl

/-- A device whose port `p` recorded the loss of its return lane. -/
def Device.laneGone (d : Device) (p : PortIx) : Device := { d with hp := vset d.hp p { d.port p with sync := .lost } }

theorem Device.laneLost_heard {d : Device} {p : PortIx} (sync : (d.port p).sync = .inSync) (disabled : (d.port p).state ≠ .disabled)
    (down : (d.port p).state ≠ .down) :
    d.laneLost p = (((d.laneGone p).quenchPort p .down).reported p .headLaneLost .laneLosses).checkLoads := by
  rw [Device.laneLost, if_neg (by rw [sync]; decide)]
  cases state : (d.port p).state
  case disabled => exact absurd state disabled
  case down => exact absurd state down
  all_goals rfl

/-- Settles O50: by the sync and the state of the port. -/
theorem headLaneSyncFollowed : Obligations.HeadLaneSyncFollowed := by
  intro s p working hp
  refine ⟨exec_port rfl rfl working rfl, fun lost => exec_still rfl rfl working (Device.laneLost_lost lost),
    fun sync silent => exec_port rfl rfl working (Device.laneLost_silent sync silent), fun sync disabled down => ?_⟩
  have port : (s.dev.laneGone p).port p = { hp with sync := .lost } := vget_vset_same _ _ _
  have effect := Device.laneLost_heard sync disabled down
  rw [(s.dev.laneGone p).quenchPort_eq, port, show (s.dev.laneGone p).hp = vset s.dev.hp p { hp with sync := .lost } from rfl,
    vset_vset] at effect
  obtain ⟨cp, exec', result, answered⟩ := exec_checkLoads (c := .headReturnLaneLost p) rfl rfl working effect
    (Device.settled_of_killed (sel := fun q _ => q == p) working.2 (by
      by_cases ready : hp.state = .ready
      · exact Or.inr (if_pos ready)
      · exact Or.inl (if_neg ready)) rfl)
  refine ⟨_, result, rfl, rfl, rfl, headCounted_of_counts (headCounted_reported s.dev p .headLaneLost .laneLosses) rfl,
    fun p' r => ?_, loadsAnswered_of_same rfl rfl answered⟩
  refine (Device.pipe_of_emptied (d := s.dev) (p := p) (b := decide (hp.state = .ready)) ?_ p' r).trans ?_
  · simp only [decide_eq_true_eq]
    rfl
  · simp only [decide_eq_true_eq]

end Sys2Proof.Machine
end

section
/-! PROOFS. The lane arbiter's choice, the FIREs sent, and the loads and the unparking of ports by order (R163 to R165, R169, R174, R176). -/

namespace Sys2Proof.Machine

/-! ### The arbiter's choice (R169) -/

theorem HeadPort.choose_token {hp : HeadPort} {t : Token} {ts : List Token} (tokens : hp.tokens = t :: ts) :
    hp.choose = { hp with current := .token t, tokens := ts } := by
  rw [HeadPort.choose, tokens]

theorem HeadPort.choose_progress {hp : HeadPort} {r : RowIx} {st : Bool} {x : FrameSym} {xs : List FrameSym} (tokens : hp.tokens = [])
    (progress : hp.progress = some { row := r, stale := st, left := x :: xs }) :
    hp.choose = { hp with current := .frame x, progress := some { row := r, stale := st, left := xs } } := by
  rw [HeadPort.choose, tokens, progress]

theorem HeadPort.choose_picked {hp : HeadPort} {f : Frame} {x : FrameSym} {xs : List FrameSym} (tokens : hp.tokens = [])
    (progress : hp.progress = none) (picked : pickFrame hp.frames (circleAfter hp.lastRow) = some f) (left : f.left = x :: xs) :
    hp.choose = { hp with current := .frame x, progress := some { f with left := xs }, frames := hp.frames.erase f, lastRow := f.row } := by
  rw [HeadPort.choose, tokens, progress]
  simp only [picked, left, List.head?_cons, List.tail_cons, Option.map_some, Option.getD_some]

theorem HeadPort.choose_idle {hp : HeadPort} (tokens : hp.tokens = []) (progress : hp.progress = none) (frames : hp.frames = []) :
    hp.choose = { hp with current := .idle } := by
  have none_ : ∀ rs, pickFrame [] rs = none := fun rs => by
    induction rs with
    | nil => rfl
    | cons r rs ih => exact ih
  rw [HeadPort.choose, tokens, progress, frames]
  simp only [none_]

/-- The waiting frame of the row that comes first among some rows, no other frame being of its row. -/
theorem pickFrame_first {frames : List Frame} {f : Frame} (mem : f ∈ frames) (rows : List RowIx) (row : f.row ∈ rows)
    (alone : ∀ k ∈ frames, k ≠ f → k.row ≠ f.row ∧ ¬ rows.idxOf k.row < rows.idxOf f.row) : pickFrame frames rows = some f := by
  induction rows with
  | nil => cases row
  | cons r rows ih =>
    by_cases here : f.row = r
    · have found : frames.find? (fun k => k.row == r) = some f := by
        cases result : frames.find? (fun k => k.row == r) with
        | none => exact absurd (beq_iff_eq.2 here) (List.find?_eq_none.1 result f mem)
        | some k =>
          by_cases same : k = f
          · rw [same]
          · exact absurd ((beq_iff_eq.1 (List.find?_some (p := fun k : Frame => k.row == r) result)).trans here.symm)
              (alone k (List.mem_of_find?_eq_some result) same).1
      simp only [pickFrame, found]
    · have notHere : ∀ k ∈ frames, k.row ≠ r := fun k memK isHere => by
        have same : k ≠ f := fun eq => here (eq ▸ isHere)
        refine (alone k memK same).2 ?_
        rw [isHere, List.idxOf_cons_self, List.idxOf_cons_ne _ (Ne.symm here)]
        exact Nat.succ_pos _
      have missed : frames.find? (fun k => k.row == r) = none :=
        List.find?_eq_none.2 fun k memK isHere => notHere k memK (beq_iff_eq.1 isHere)
      simp only [pickFrame, missed]
      refine ih ((List.mem_cons.1 row).resolve_left here) fun k memK ne => ⟨(alone k memK ne).1, fun before => (alone k memK ne).2 ?_⟩
      rw [List.idxOf_cons_ne _ (Ne.symm (notHere k memK)), List.idxOf_cons_ne _ (Ne.symm here)]
      exact Nat.succ_lt_succ before

theorem circleAfter_idxOf (last r : RowIx) : (circleAfter last).idxOf r = (r - last - 1).val := by
  revert last r
  decide

theorem mem_circleAfter (last r : RowIx) : r ∈ circleAfter last := by
  revert last r
  decide

theorem HeadPort.sendingFire_eq_false {hp : HeadPort} (noFire : ∀ r, hp.current ≠ .token (.fire r)) : hp.sendingFire = false := by
  rw [HeadPort.sendingFire]
  split
  · next r current => exact absurd current (noFire r)
  · rfl

theorem HeadPort.atFrameEnd_eq_false {hp : HeadPort}
    (within : ∀ x r st, hp.current = .frame x → hp.progress ≠ some { row := r, stale := st, left := [] }) : hp.atFrameEnd = false := by
  rw [HeadPort.atFrameEnd]
  split
  · next x f current progress =>
    cases left : f.left with
    | nil =>
      refine absurd progress ?_
      rw [show f = { row := f.row, stale := f.stale, left := [] } by rw [← left]]
      exact within x f.row f.stale current
    | cons x xs => rfl
  · rfl

/-- Settles O47: each case of the arbiter's choice by its equation. -/
theorem laneArbiterChooses : Obligations.LaneArbiterChooses := by
  intro s p working hp becomes noFire within
  have boundary : ∀ {k : HeadPort}, hp.choose = k → becomes k := fun {k} chooses => by
    refine exec_port rfl rfl working ?_
    refine (if_neg ?_).trans (congrArg (fun k => { s.dev with hp := vset s.dev.hp p k }) chooses)
    rw [HeadPort.sendingFire_eq_false noFire, HeadPort.atFrameEnd_eq_false within]
    exact Bool.false_ne_true
  refine ⟨fun t ts tokens => boundary (HeadPort.choose_token tokens),
    fun r st x xs tokens progress => boundary (HeadPort.choose_progress tokens progress),
    fun f x xs tokens progress mem left alone => boundary (HeadPort.choose_picked tokens progress ?_ left),
    fun tokens progress frames => boundary (HeadPort.choose_idle tokens progress frames)⟩
  refine pickFrame_first mem _ (mem_circleAfter _ _) fun k memK ne => ?_
  rw [circleAfter_idxOf, circleAfter_idxOf]
  exact alone k memK ne

/-! ### A FIRE has been sent (R165, R174, R176) -/

theorem HeadPort.choose_statusWord (hp : HeadPort) : hp.choose.statusWord = hp.statusWord := by
  unfold HeadPort.choose
  split
  · rfl
  · split
    · rfl
    · split <;> rfl

/-- The silent counter of a port after a FIRE. -/
def HeadPort.firedOnce (hp : HeadPort) : HeadPort := { hp with silent := min 128 (hp.silent + 1) }

theorem Device.fireSent_quiet {d : Device} {p : PortIx} (more : (d.port p).silent ≠ 127) :
    d.fireSent p = { d with hp := vset d.hp p (d.port p).firedOnce } :=
  if_neg fun eq => more (Nat.succ.inj (eq.trans rfl))

theorem Device.fireSent_silent {d : Device} {p : PortIx} (last : (d.port p).silent = 127) : d.fireSent p =
    ((({ d with hp := vset d.hp p (d.port p).firedOnce } : Device).reported p .headSilent .silences).autoPark p).checkLoads :=
  if_pos (congrArg (· + 1) last)

/-- The effect of FIRE_TOKEN_SENT where a FIRE is on the lane. -/
theorem Device.effect_fireTokenSent {d : Device} {p : PortIx} (sending : (d.port p).sendingFire = true) :
    d.effect (.fireTokenSent p) = (d.fireSent p).boundary p := if_pos sending

/-- Settles O49: by the silent counter. -/
theorem fireSentCounts : Obligations.FireSentCounts := by
  intro s p r working hp leaves
  refine ⟨fun rest inFrame tokens => ?_, fun current _ => ⟨fun more => ?_, fun last => ?_⟩⟩
  · let d : Device := { s.dev with hp := vset s.dev.hp p (s.dev.port p).choose }
    have port : (d.port p) = { s.dev.port p with current := .token (.fire r), tokens := rest } :=
      (vget_vset_same _ _ _).trans (HeadPort.choose_token tokens)
    have lane : (s.dev.port p).sendingFire = false := HeadPort.sendingFire_eq_false fun r' fire => by
      rw [HeadPort.inFrame, fire] at inFrame
      cases inFrame
    have next : (s.dev.port p).fireNext = true := by rw [HeadPort.fireNext, tokens]
    have before : s.dev.effect (.fireTokenSent p) = ((s.dev.boundary p).fireSent p).boundary p :=
      (if_neg (by rw [lane]; exact Bool.false_ne_true)).trans (if_pos (by rw [inFrame, next]; rfl))
    have after : d.effect (.fireTokenSent p) = (d.fireSent p).boundary p := Device.effect_fireTokenSent (by rw [port]; rfl)
    rw [exec_eq_run _ _ rfl rfl, exec_eq_run _ _ rfl rfl, State.run_released _ _ working.1,
      State.run_released { s with dev := d } _ working.1, before, after]
    rfl
  · have sending : (s.dev.port p).sendingFire = true := by rw [HeadPort.sendingFire, current]
    refine exec_port rfl rfl working ((Device.effect_fireTokenSent sending).trans ?_)
    rw [Device.fireSent_quiet more]
    have ports : vmod (vset s.dev.hp p (s.dev.port p).firedOnce) p HeadPort.choose = vset s.dev.hp p hp.choose := by
      rw [vmod, vget_vset_same, vset_vset]
      rfl
    exact congrArg (fun v => ({ s.dev with hp := v } : Device)) ports
  · have sending : (s.dev.port p).sendingFire = true := by rw [HeadPort.sendingFire, current]
    let a : Device := ({ s.dev with hp := vset s.dev.hp p hp } : Device).reported p .headSilent .silences
    have port : a.port p = hp := vget_vset_same _ _ _
    have reported : a.settled := Device.settled_congr working.2 rfl rfl rfl rfl
    obtain ⟨cp, exec', settles, answered⟩ := (a.autoPark p).settle_loads (Device.autoPark_settled reported p) p
      HeadPort.choose_state HeadPort.choose_statusWord
    have effect : s.dev.effect (.fireTokenSent p) = (a.autoPark p).checkLoads.modPort p HeadPort.choose :=
      (Device.effect_fireTokenSent sending).trans (congrArg (Device.boundary · p) (Device.fireSent_silent last))
    have result : exec (.fireTokenSent p) s = .next { s with dev := ((a.autoPark p).checkLoads.modPort p HeadPort.choose).settle } := by
      rw [exec_eq_run _ _ rfl rfl, State.run_released _ _ working.1, effect]
    rw [settles, a.autoPark_eq, port] at result
    rw [a.autoPark_eq, port] at answered
    have ports : vmod (vset a.hp p (hp.parkedBy (a.head p))) p HeadPort.choose =
        vset s.dev.hp p (hp.parkedBy (s.dev.head p)).choose := by
      rw [vmod, vget_vset_same, vset_vset]
      exact vset_vset _ _ _ _
    have leaving : a.leavesReady p = true ↔ leaves := by
      rw [Device.leavesReady, port, Bool.and_eq_true, beq_iff_eq]
      exact Iff.rfl
    refine ⟨_, result, rfl, rfl, headCounted_of_counts (headCounted_reported s.dev p .headSilent .silences) rfl, ports,
      fun p' r' => ?_, fun stays => ?_, loadsAnswered_of_same rfl rfl answered⟩
    · refine (Device.pipe_of_emptied (d := s.dev) (b := a.leavesReady p) rfl p' r').trans ?_
      simp only [leaving]
    · have no := Bool.eq_false_iff.2 (fun yes => stays (leaving.1 yes))
      refine ⟨?_, ?_⟩
      · change (if a.leavesReady p then _ else _) = _
        rw [no, if_neg Bool.false_ne_true]
        rfl
      · change (if a.leavesReady p then _ else _) = _
        rw [no, if_neg Bool.false_ne_true]
        rfl

end Sys2Proof.Machine
end

section
/-! PROOFS. LOAD_WAVES and UNPARK (R164, R165, R176). -/

namespace Sys2Proof.Machine

/-! ### UNPARK -/

/-- A fold over ports that changes the named ones, each for itself. -/
theorem Device.modPorts_eq (names : PortIx → Bool) (f : HeadPort → HeadPort) (l : List PortIx) (nodup : l.Nodup) (d : Device) :
    ∃ hp, l.foldl (fun (e : Device) p => if names p then e.modPort p f else e) d = { d with hp := hp } ∧
      ∀ p, vget hp p = if p ∈ l ∧ names p = true then f (d.port p) else d.port p := by
  induction l generalizing d with
  | nil => exact ⟨d.hp, rfl, fun p => by simp [Device.port]⟩
  | cons q l ih =>
    rw [List.nodup_cons] at nodup
    obtain ⟨hp, same, ports⟩ := ih nodup.2 (if names q then d.modPort q f else d)
    refine ⟨hp, ?_, fun p => ?_⟩
    · rw [List.foldl_cons, same]
      split <;> rfl
    · rw [ports]
      have step : (if names q then d.modPort q f else d).port p = if p = q ∧ names q = true then f (d.port p) else d.port p := by
        cases named : names q with
        | false => simp
        | true => simp only [if_true, and_true]; exact vget_vmod _ _ _ _
      simp only [step, List.mem_cons]
      by_cases eq : p = q
      · subst eq
        simp only [nodup.1, false_and, if_false, true_and, true_or]
      · simp only [eq, false_and, if_false, false_or]

theorem Device.statusWords_eq (d : Device) : d.statusWords = allPorts.map (fun p => (d.port p).statusWord) := rfl

theorem PortState.code_eq (st : PortState) : st.code = [PortState.disabled, .down, .unloaded, .loading, .ready, .parked].idxOf st := by
  cases st <;> rfl

theorem HeadPort.statusWord_eq (hp : HeadPort) : hp.statusWord = BitVec.ofNat 32 (
    [PortState.disabled, .down, .unloaded, .loading, .ready, .parked].idxOf hp.state + 256 * (hp.fault.getD 0).toNat +
      65536 * hp.silent + (if hp.sync = .inSync then 16777216 else 0) + (if hp.fault = none then 0 else 33554432)) := by
  rw [HeadPort.statusWord, PortState.code_eq]
  cases hp.fault <;> rfl

/-- Settles O35: the named ports one by one. -/
theorem unparkRestores : Obligations.UnparkRestores := by
  refine ⟨fun s o rest w offered code body => ?_, HeadPort.statusWord_eq⟩
  have fits : o.fits = true := by simp [OrderParcel.fits, bodyFits, code, body]
  have names : ∀ p, o.names p = w.getLsbD p.val := fun p => by rw [OrderParcel.names, OrderParcel.word_zero_of_body body]
  obtain ⟨hp, same, ports⟩ := Device.modPorts_eq o.names HeadPort.unpark allPorts (by decide) (s.dev.withoutFront rest)
  have answers : checkedBody unparkOrder o (s.dev.withoutFront rest) = ({ s.dev.withoutFront rest with hp := hp } : Device).reply o.hdr .ok
      (allPorts.map (fun p => (vget hp p).statusWord)) := by
    rw [checkedBody_of_fits _ fits, unparkOrder, same]
    rfl
  refine ⟨_, State.run_answered_after offered ((o.isCode_iff 10).2 (by rw [code]; rfl)) answers rfl rfl, rfl, fun p => ?_⟩
  refine (ports p).trans ?_
  rw [names, HeadPort.unpark]
  by_cases named : w.getLsbD p.val = true
  · simp only [named, mem_allPorts, true_and, if_true]
    rfl
  · simp only [Bool.eq_false_iff.2 named, Bool.false_eq_true, and_false, false_and, if_false]
    rfl

/-! ### LOAD_WAVES -/

/-- A port that starts a load when it is named. -/
def HeadPort.starts (hp : HeadPort) : Bool := hp.state == .unloaded || hp.state == .ready

/-- A port after it started a load (R164). -/
def HeadPort.loadStarted (hp : HeadPort) (h : HeadDescr) (w : Waveforms) (now : Nat) : HeadPort :=
  let base := if hp.state = .ready then hp.left h.rowCount h.enabled .loading else hp
  { base with
    state := .loading
    acked := .replicate 4 false
    loadAt := some (now + 100000)
    tokens := base.tokens ++ [0, 1, 2, 3].map (fun i : Fin 4 => Token.waveform i (vget w i)) }

/-- Device `b` is device `a` after the ports of `l` that `names` picks started their loads. -/
structure Device.LoadsStarted (names : PortIx → Bool) (l : List PortIx) (a b : Device) : Prop where
  same : b = { a with
    hp := b.hp, rf := b.rf, ls := { a.ls with fetchQ := b.ls.fetchQ, service := b.ls.service } }
  settled : b.settled
  port : ∀ p, b.port p = if p ∈ l ∧ (names p && (a.port p).starts) = true then
    (a.port p).loadStarted (a.head p) (vget a.tab.waves p) a.now else a.port p
  pipe : ∀ p r, b.pipe p r = if p ∈ l ∧ (names p && (a.port p).starts) = true ∧ (a.port p).state = .ready then
    (a.pipe p r).emptied else a.pipe p r

theorem Device.startLoad_still {d : Device} {p : PortIx} (still : (d.port p).starts = false) : d.startLoad p = d := by
  rw [Device.startLoad]
  rw [HeadPort.starts] at still
  cases state : (d.port p).state <;> rw [state] at still
  case unloaded => cases still
  case ready => cases still

theorem Device.startLoad_starts {d : Device} {p : PortIx} (starts : (d.port p).starts = true) : d.startLoad p = { d with
    hp := vset d.hp p ((d.port p).loadStarted (d.head p) (vget d.tab.waves p) d.now)
    rf := if (d.port p).state = .ready then emptiedRows d.rf p else d.rf
    ls := if (d.port p).state = .ready then d.ls.killFetches (fun q _ => q == p) else d.ls } := by
  rw [Device.startLoad, HeadPort.loadStarted]
  rw [HeadPort.starts] at starts
  cases state : (d.port p).state <;> rw [state] at starts
  case unloaded => rfl
  case ready =>
    simp only [if_true, d.leaveReady_eq, Device.modPort, vmod, vget_vset_same, vset_vset]
    rfl
  all_goals cases starts

theorem Device.startLoad_started {d : Device} (settled : d.settled) (p : PortIx) :
    d.LoadsStarted (fun _ => true) [p] (d.startLoad p) := by
  cases starts : (d.port p).starts with
  | false =>
    rw [Device.startLoad_still starts]
    refine ⟨rfl, settled, fun q => ?_, fun q r => ?_⟩
    · rw [if_neg]
      rintro ⟨mem, yes⟩
      rw [List.mem_singleton.1 mem, starts] at yes
      cases yes
    · rw [if_neg]
      rintro ⟨mem, yes, _⟩
      rw [List.mem_singleton.1 mem, starts] at yes
      cases yes
  | true =>
    have killed : (d.startLoad p).ls = d.ls ∨ (d.startLoad p).ls = d.ls.killFetches (fun q _ => q == p) := by
      rw [Device.startLoad_starts starts]
      by_cases ready : (d.port p).state = .ready
      · exact Or.inr (if_pos ready)
      · exact Or.inl (if_neg ready)
    have cp : (d.startLoad p).cp = d.cp := by rw [Device.startLoad_starts starts]
    refine ⟨?_, Device.settled_of_killed settled killed cp, fun q => ?_, fun q r => ?_⟩
    · rw [Device.startLoad_starts starts]
      by_cases ready : (d.port p).state = .ready
      · simp only [if_pos ready, LineStore.killFetches, settled.1]
        rfl
      · simp only [if_neg ready]
    · rw [Device.startLoad_starts starts]
      refine (vget_vset _ _ _ _).trans ?_
      simp only [List.mem_singleton, Bool.true_and]
      by_cases eq : q = p
      · rw [if_pos eq, if_pos ⟨eq, by rw [eq]; exact starts⟩, eq]
      · rw [if_neg eq, if_neg (fun h => eq h.1)]
        rfl
    · refine (Device.pipe_of_emptied (d := d) (p := p) (b := decide ((d.port p).state = .ready)) ?_ q r).trans ?_
      · rw [Device.startLoad_starts starts]
        simp only [decide_eq_true_eq]
      · simp only [List.mem_singleton, Bool.true_and, decide_eq_true_eq]
        by_cases eq : q = p
        · subst eq
          simp only [starts, true_and]
        · simp only [eq, false_and]

theorem Device.LoadsStarted.cons {names : PortIx → Bool} {q : PortIx} {l : List PortIx} {a b c : Device} (apart : q ∉ l)
    (first : a.LoadsStarted (fun _ => names q) [q] b) (others : b.LoadsStarted names l c) : a.LoadsStarted names (q :: l) c := by
  have tab : b.tab = a.tab := by rw [first.same]
  have now : b.now = a.now := by rw [first.same]
  have elsewhere : ∀ p, p ≠ q → b.port p = a.port p := fun p ne => (first.port p).trans (if_neg fun h => ne (List.mem_singleton.1 h.1))
  refine ⟨?_, others.settled, fun p => ?_, fun p r => ?_⟩
  · rw [others.same, first.same]
  · rw [others.port]
    simp only [List.mem_cons]
    by_cases eq : p = q
    · subst eq
      rw [if_neg (fun h => apart h.1), first.port]
      simp only [List.mem_singleton, true_and, true_or]
    · rw [elsewhere p eq, Device.head, Device.head, tab, now]
      simp only [eq, false_or]
  · rw [others.pipe]
    simp only [List.mem_cons]
    by_cases eq : p = q
    · subst eq
      rw [if_neg (fun h => apart h.1), first.pipe]
      simp only [List.mem_singleton, true_and, true_or]
    · rw [elsewhere p eq, first.pipe, if_neg (c := p ∈ [q] ∧ _) (fun h => eq (List.mem_singleton.1 h.1))]
      simp only [eq, false_or]

theorem Device.loadsStarted_foldl (names : PortIx → Bool) (l : List PortIx) (nodup : l.Nodup) {d : Device} (settled : d.settled) :
    d.LoadsStarted names l (l.foldl (fun e p => if names p then e.startLoad p else e) d) := by
  induction l generalizing d with
  | nil => exact ⟨rfl, settled, fun p => by simp, fun p r => by simp⟩
  | cons q l ih =>
    rw [List.nodup_cons] at nodup
    have first : d.LoadsStarted (fun _ => names q) [q] (if names q then d.startLoad q else d) := by
      cases names q with
      | false => exact ⟨rfl, settled, fun p => by simp, fun p r => by simp⟩
      | true => exact Device.startLoad_started settled q
    exact Device.LoadsStarted.cons nodup.1 first (ih nodup.2 first.settled)

/-- Settles O34: the loads port by port, then the answer by whether one goes on. -/
theorem loadWavesStarts : Obligations.LoadWavesStarts := by
  intro s o rest w offered code body
  have fits : o.fits = true := by simp [OrderParcel.fits, bodyFits, code, body]
  have ofCode : o.isCode 9 = true := (o.isCode_iff 9).2 (by rw [code]; rfl)
  have names : ∀ p, o.names p = w.getLsbD p.val := fun p => by rw [OrderParcel.names, OrderParcel.word_zero_of_body body]
  refine ⟨fun busy => State.run_fitting offered (·.isCode 9) loadWavesOrder ofCode fits .notConfig [] ?_, fun config => ?_⟩
  · refine if_pos ?_
    rw [Device.jobActive]
    exact bne_iff_ne.2 busy
  · have settled : (s.dev.withoutFront rest).settled := Device.settled_congr offered.1.2 rfl rfl rfl rfl
    have started := Device.loadsStarted_foldl o.names allPorts (by decide) settled
    generalize result : allPorts.foldl (fun e p => if o.names p then e.startLoad p else e) (s.dev.withoutFront rest) = e at started
    let f : Device := { e with ou := { e.ou with exec := some (.loadWaves o.hdr) } }
    have runs : checkedBody loadWavesOrder o (s.dev.withoutFront rest) = f.checkLoads := by
      rw [checkedBody_of_fits _ fits, loadWavesOrder, if_neg (by rw [Device.jobActive]; simp [config]), result]
    have taken : exec .loadWaves s = .next { s with dev := f.checkLoads.settle } := by
      rw [← runs]
      exact State.run_takeOrder s o rest offered (·.isCode 9) _ ofCode
    have fSettled : f.settled := Device.settled_congr started.settled rfl rfl rfl rfl
    have cp : e.cp = s.dev.cp.taken rest := by rw [started.same]; rfl
    have ou : e.ou = s.dev.ou := by rw [started.same]
    have ports : ∀ p, e.port p = _ := started.port
    have pipes : ∀ p r, e.pipe p r = _ := started.pipe
    simp only [mem_allPorts, true_and, names] at ports pipes
    have change : ∀ {t : State}, t.dev.hp = e.hp → t.dev.rf = e.rf → ∀ p,
        t.dev.port p = (if (w.getLsbD p.val && (s.dev.port p).starts) = true then
          (s.dev.port p).loadStarted (s.dev.head p) (vget s.dev.tab.waves p) s.dev.now else s.dev.port p) ∧
        ∀ r, t.dev.pipe p r = if (w.getLsbD p.val && (s.dev.port p).starts) = true ∧ (s.dev.port p).state = .ready then
          (s.dev.pipe p r).emptied else s.dev.pipe p r := fun {t} hp rf p => by
      refine ⟨?_, fun r => ?_⟩
      · rw [Device.port, hp]
        exact ports p
      · rw [Device.pipe, rf]
        exact pipes p r
    by_cases loading : ∃ p, (e.port p).state = .loading
    · have goesOn : f.checkLoads = f := Device.checkLoads_goesOn (Or.inr loading)
      rw [goesOn, Device.settle_of_settled f fSettled] at taken
      refine ⟨_, taken, rfl, ?_, change rfl rfl, fun _ => ⟨cp, ?_⟩, fun none_ => ?_⟩
      · exact congrArg (fun d : Device => { d with cp := e.cp, ou := f.ou }) started.same
      · change { e.ou with exec := some (.loadWaves o.hdr) } = _
        rw [ou]
      · obtain ⟨p, isLoading⟩ := loading
        exact absurd isLoading (none_ p)
    · have ends : f.checkLoads = _ := Device.checkLoads_ends (d := f) (h := o.hdr) rfl (not_exists.1 loading)
      have settles := Device.settle_pushReply ({ f with ou := { f.ou with exec := none } }) f fSettled rfl rfl rfl o.hdr .ok f.statusWords false
      rw [ends, Device.finishExec, Device.reply, settles] at taken
      refine ⟨_, taken, rfl, ?_, change rfl rfl, fun some_ => absurd some_ loading, fun _ => ⟨?_, ?_⟩⟩
      · change ({ e with cp := _, ou := _ } : Device) = _
        conv_lhs => rw [started.same]
      · change ({ e.cp with replies := _, upSending := _ } : ChainPort) = _
        rw [cp]
        rfl
      · change { e.ou with exec := none } = _
        rw [ou, ← offered.2.2.1]

end Sys2Proof.Machine
end

section
/-! PROOFS. The ends of a job: STOP_JOB and ABORT_JOB (R78, R91, R92, R117, R121 to R123, R154 to R156). -/

namespace Sys2Proof.Machine

/-! ### Every pipeline at the end of a job (R154 to R156) -/

theorem Pipeline.endJob_eq_jobEnded (keepHeld : Bool) (q : Pipeline) : q.endJob keepHeld = q.jobEnded keepHeld := rfl

/-- The line in the latch of a row is discarded at the end of a job. -/
def Pipeline.discards (keepHeld : Bool) (q : Pipeline) : Bool := q.latch.isLoaded && !(keepHeld && q.hold.isSome)

/-- A port with DISCARD raised, in READY, for the rows of a list that hold a line to be discarded. -/
def HeadPort.discarding (keepHeld : Bool) (rows : RowIx → Pipeline) (l : List RowIx) (hp : HeadPort) : HeadPort :=
  { hp with tokens := hp.tokens ++
      (if hp.state = .ready then (l.filter (fun r => (rows r).discards keepHeld)).map Token.discard else []) }

theorem Device.rowEndJob_eq (keepHeld : Bool) (d : Device) (p : PortIx) (r : RowIx) : d.rowEndJob keepHeld p r = { d with
    hp := vset d.hp p ((d.port p).discarding keepHeld (d.pipe p) [r])
    rf := rmod d.rf p r (Pipeline.jobEnded keepHeld) } := by
  have same : d.hp = vset d.hp p (d.port p) := (vset_vget d.hp p).symm
  have kept : (d.pipe p r).discards keepHeld = false → (d.port p).discarding keepHeld (d.pipe p) [r] = d.port p := fun no => by
    simp only [HeadPort.discarding, List.filter_cons, no, Bool.false_eq_true, if_false, List.filter_nil, List.map_nil, ite_self,
      List.append_nil]
  have still : (d.pipe p r).discards keepHeld = false → d.modPipe p r (Pipeline.endJob keepHeld) = { d with
      hp := vset d.hp p ((d.port p).discarding keepHeld (d.pipe p) [r])
      rf := rmod d.rf p r (Pipeline.jobEnded keepHeld) } := fun no => by
    rw [kept no, ← same]
    rfl
  cases latch : (d.pipe p r).latch with
  | clear =>
    simp only [Device.rowEndJob, latch]
    exact still (by rw [Pipeline.discards, latch]; rfl)
  | sending y =>
    simp only [Device.rowEndJob, latch]
    exact still (by rw [Pipeline.discards, latch]; rfl)
  | loaded y =>
    cases held : keepHeld && (d.pipe p r).hold.isSome with
    | true =>
      simp only [Device.rowEndJob, latch, held, if_true]
      exact still (by rw [Pipeline.discards, latch, held]; rfl)
    | false =>
      have yes : (d.pipe p r).discards keepHeld = true := by rw [Pipeline.discards, latch, held]; rfl
      simp only [Device.rowEndJob, latch, held, Bool.false_eq_true, if_false, Device.raiseToken, HeadPort.discarding, List.filter_cons,
        yes, if_true, List.filter_nil, List.map_cons, List.map_nil]
      by_cases ready : (d.port p).state = .ready
      · rw [if_pos ready, if_pos ready]
        rfl
      · rw [if_neg ready, if_neg ready, List.append_nil, ← same]
        rfl

/-- Device `b` is device `a` after the rows of some ports ended their job: those of port `p` in `rows p`. -/
structure Device.RowsEnded (keepHeld : Bool) (rows : PortIx → List RowIx) (a b : Device) : Prop where
  same : b = { a with hp := b.hp, rf := b.rf }
  port : ∀ p, b.port p = (a.port p).discarding keepHeld (a.pipe p) (rows p)
  pipe : ∀ p r, b.pipe p r = if r ∈ rows p then (a.pipe p r).jobEnded keepHeld else a.pipe p r

theorem HeadPort.discarding_nil (keepHeld : Bool) (rows : RowIx → Pipeline) (hp : HeadPort) : hp.discarding keepHeld rows [] = hp := by
  simp only [HeadPort.discarding, List.filter_nil, List.map_nil, ite_self, List.append_nil]

theorem HeadPort.discarding_append (keepHeld : Bool) (before after : RowIx → Pipeline) (l l' : List RowIx) (hp : HeadPort)
    (apart : ∀ r ∈ l', after r = before r) :
    (hp.discarding keepHeld before l).discarding keepHeld after l' = hp.discarding keepHeld before (l ++ l') := by
  have same : l'.filter (fun r => (after r).discards keepHeld) = l'.filter (fun r => (before r).discards keepHeld) :=
    List.filter_congr fun r mem => by rw [apart r mem]
  simp only [HeadPort.discarding, List.filter_append, List.map_append, same]
  split
  · rw [List.append_assoc]
  · simp only [List.append_nil]

theorem Device.RowsEnded.refl (keepHeld : Bool) (a : Device) : a.RowsEnded keepHeld (fun _ => []) a :=
  ⟨rfl, fun _ => (HeadPort.discarding_nil _ _ _).symm, fun _ _ => by simp⟩

theorem Device.RowsEnded.trans {keepHeld : Bool} {rows rows' : PortIx → List RowIx} {a b c : Device}
    (apart : ∀ p, ∀ r ∈ rows' p, r ∉ rows p) (first : a.RowsEnded keepHeld rows b) (second : b.RowsEnded keepHeld rows' c) :
    a.RowsEnded keepHeld (fun p => rows p ++ rows' p) c := by
  refine ⟨by rw [second.same, first.same], fun p => ?_, fun p r => ?_⟩
  · rw [second.port, first.port]
    exact HeadPort.discarding_append _ _ _ _ _ _ fun r mem => (first.pipe p r).trans (if_neg (apart p r mem))
  · rw [second.pipe, first.pipe]
    simp only [List.mem_append]
    by_cases late : r ∈ rows' p
    · rw [if_pos late, if_neg (apart p r late), if_pos (Or.inr late)]
    · simp only [late, if_false, or_false]

theorem Device.rowEndJob_ended (keepHeld : Bool) (d : Device) (p : PortIx) (r : RowIx) :
    d.RowsEnded keepHeld (fun q => if q = p then [r] else []) (d.rowEndJob keepHeld p r) := by
  rw [Device.rowEndJob_eq]
  refine ⟨rfl, fun q => ?_, fun q s => ?_⟩
  · refine (vget_vset _ _ _ _).trans ?_
    by_cases eq : q = p
    · subst eq
      simp only [if_true]
    · simp only [if_neg eq, HeadPort.discarding_nil]
      rfl
  · refine (rget_rmod _ _ _ _ _ _).trans ?_
    by_cases eq : q = p
    · subst eq
      simp only [if_true, true_and, List.mem_singleton]
      rfl
    · simp only [eq, false_and, if_false, List.not_mem_nil]
      rfl

/-- The rows that a list of places names at a port. -/
def rowsAt (l : List (PortIx × RowIx)) (p : PortIx) : List RowIx := (l.filter (fun k => k.1 == p)).map (·.2)

theorem mem_rowsAt (l : List (PortIx × RowIx)) (p : PortIx) (r : RowIx) : r ∈ rowsAt l p ↔ (p, r) ∈ l := by
  simp only [rowsAt, List.mem_map, List.mem_filter, beq_iff_eq]
  constructor
  · rintro ⟨⟨q, s⟩, ⟨mem, eq⟩, eq'⟩
    simp only at eq eq'
    rw [← eq, ← eq']
    exact mem
  · exact fun mem => ⟨(p, r), ⟨mem, rfl⟩, rfl⟩

theorem rowsAt_all (p : PortIx) : rowsAt allPortRows p = allRows := by
  revert p
  decide

theorem Device.rowsEnded_foldl (keepHeld : Bool) (l : List (PortIx × RowIx)) (nodup : l.Nodup) (d : Device) :
    d.RowsEnded keepHeld (rowsAt l) (l.foldl (fun d k => d.rowEndJob keepHeld k.1 k.2) d) := by
  induction l generalizing d with
  | nil => exact Device.RowsEnded.refl keepHeld d
  | cons k l ih =>
    obtain ⟨q, s⟩ := k
    rw [List.nodup_cons] at nodup
    have split : rowsAt ((q, s) :: l) = fun p => (if p = q then [s] else []) ++ rowsAt l p := by
      funext p
      by_cases eq : p = q
      · simp [rowsAt, List.filter_cons, eq]
      · simp [rowsAt, List.filter_cons, eq, Ne.symm eq]
    rw [split]
    refine Device.RowsEnded.trans (fun p r mem isFirst => ?_) (d.rowEndJob_ended keepHeld q s) (ih nodup.2 _)
    split at isFirst
    · next eq =>
      rw [mem_rowsAt, eq, List.mem_singleton.1 isFirst] at mem
      exact nodup.1 mem
    · cases isFirst

theorem allPortRows_nodup : allPortRows.Nodup := allPorts_nodup.product allRows_nodup

theorem Frame.outlive_eq : Frame.outlive = fun f => { f with stale := true } := rfl

/-- Every port and every pipeline at the end of a job. -/
theorem Device.endPipelines_eq (d : Device) (keepHeld : Bool) : ∃ hp rf,
    d.endPipelines keepHeld = { d with hp := hp, rf := rf, ls := d.ls.killFetches (fun _ _ => true) } ∧
    (∀ p, vget hp p = (d.port p).jobEnded keepHeld (d.pipe p)) ∧ ∀ p r, rget rf p r = (d.pipe p r).jobEnded keepHeld := by
  have ended := d.rowsEnded_foldl keepHeld allPortRows allPortRows_nodup
  unfold Device.endPipelines
  generalize allPortRows.foldl (fun d k => d.rowEndJob keepHeld k.1 k.2) d = e at ended
  refine ⟨vmap HeadPort.outliveFrames e.hp, e.rf, ?_, fun p => ?_, fun p r => ?_⟩
  · conv_lhs => rw [ended.same]
  · have port := ended.port p
    rw [rowsAt_all] at port
    exact (vget_vmap _ p _).trans (congrArg HeadPort.outliveFrames port)
  · have pipe := ended.pipe p r
    rw [rowsAt_all, if_pos (mem_allRows r)] at pipe
    exact pipe

theorem Device.endPipelines_settled {d : Device} (settled : d.settled) (keepHeld : Bool) : (d.endPipelines keepHeld).settled := by
  obtain ⟨hp, rf, same, _⟩ := d.endPipelines_eq keepHeld
  rw [same]
  exact Device.settled_of_killed (sel := fun _ _ => true) settled (Or.inr rfl) rfl

/-! ### Landings and rings -/

theorem Device.abandonLanding_settled {d : Device} (settled : d.settled) : d.abandonLanding.settled := by
  obtain ⟨raised, port, lane⟩ := settled
  refine ⟨raised, fun free => ?_, lane⟩
  obtain ⟨fetches, _, window⟩ := port (Option.map_eq_none_iff.1 free)
  exact ⟨fetches, rfl, window⟩

theorem Device.flush_settled {d : Device} (settled : d.settled) : d.flush.settled := by
  obtain ⟨raised, port, lane⟩ := settled
  refine ⟨rfl, fun free => ?_, lane⟩
  obtain ⟨_, _, window⟩ := port (Option.map_eq_none_iff.1 free)
  exact ⟨rfl, rfl, window⟩

theorem Device.modRings_ring (d : Device) (f : Ring → Ring) (p : PortIx) : (d.modRings f).ring p = (d.ring p).map f := vget_vmap _ p _

/-- What every order's effect that ends settled leaves: the reply alone is filled and sent (R17, R22, R24). -/
theorem State.run_answered_settled {s : State} {o : OrderParcel} {rest : List OrderPlace} (offered : s.dev.offers o rest)
    {kind : OrderParcel → Bool} (ofKind : kind o = true) {run : OrderParcel → Device → Device} {e : Device} {st : Status}
    {body : List Word} (answers : run o (s.dev.withoutFront rest) = e.reply o.hdr st body)
    (sameCp : e.cp = (s.dev.withoutFront rest).cp) (settled : e.settled) :
    s.run (fun d => d.takeOrder kind run) =
      .next { s with dev := { e with cp := s.dev.cp.answered rest o.hdr st body } } := by
  rw [State.run_takeOrder s o rest offered kind run ofKind, answers, Device.reply,
    Device.settle_pushReply e e settled rfl rfl rfl, sameCp]
  rfl

theorem Device.withoutFront_settled {d : Device} (settled : d.settled) (rest : List OrderPlace) : (d.withoutFront rest).settled :=
  Device.settled_congr settled rfl rfl rfl rfl

/-! ### ABORT_JOB (R123, R155) -/

theorem PageControl.remove_all (pc : PageControl) : pc.remove (fun _ => true) = { pc with
    queue := [], departed := (pc.remove (fun _ => true)).departed } := by
  have queue : pc.queue.filter (fun _ => false) = [] := List.filter_eq_nil_iff.2 fun _ _ => Bool.false_ne_true
  conv_lhs => unfold PageControl.remove
  simp only [Bool.not_true, queue]
  rfl

theorem Device.abortJob_eq (d : Device) : ∃ hp rf ls departed, d.abortJob = { d with
    hp := hp
    rf := rf
    ls := ls
    le := none
    ib := { complete := [], filling := none }
    pu := d.calmRows.pu
    ou := { d.ou with devEvents := d.ou.devEvents ||| 64 }
    pc := { d.pc with
      job := .config, queue := [], departed := departed, boundLimit := none, anchor := none, qualifier := none } } ∧
    ls.fetchQ = [] ∧ ls.writeQ = [] ∧ (∀ p, vget ls.rings p = (d.ring p).map (fun g => { g with oldest := 0, slots := [] })) ∧
    (∀ p, vget hp p = (d.port p).jobEnded false (d.pipe p)) ∧ ∀ p r, rget rf p r = (d.pipe p r).emptied := by
  obtain ⟨hp, rf, same, ports, pipes⟩ := d.endPipelines_eq false
  let e : Device := { d with hp := hp, rf := rf, ls := d.ls.killFetches (fun _ _ => true) }
  refine ⟨hp, rf, e.flush.ls, (d.pc.remove (fun _ => true)).departed, ?_, rfl, rfl, fun p => vget_vmap _ p _, ports, pipes⟩
  unfold Device.abortJob
  rw [same, d.pc.remove_all]
  simp only [Device.setEvent, Device.calmRows, Device.flush, Device.abandonLanding, Device.modRings]
  rfl

theorem Device.abortJob_settled {d : Device} (settled : d.settled) : d.abortJob.settled := by
  have flushed := Device.flush_settled (Device.endPipelines_settled settled false)
  unfold Device.abortJob
  generalize (d.endPipelines false).flush = e at flushed
  exact Device.settled_congr flushed rfl rfl rfl rfl

/-- Settles O30: the abort's parts by the equation of `abortJob`. -/
theorem abortJobClears : Obligations.AbortJobClears := by
  intro s o rest offered code body
  have fits : o.fits = true := by simp [OrderParcel.fits, bodyFits, code, body]
  have ofCode : o.isCode 6 = true := (o.isCode_iff 6).2 (by rw [code]; rfl)
  refine ⟨fun config => State.run_fitting offered (·.isCode 6) abortOrder ofCode fits .ok [] (if_neg (by simp [Device.jobActive, config])),
    fun active => ?_⟩
  have isActive : (s.dev.withoutFront rest).jobActive = true := bne_iff_ne.2 active
  have settled := Device.abortJob_settled (Device.withoutFront_settled offered.1.2 rest)
  have answers : checkedBody abortOrder o (s.dev.withoutFront rest) = (s.dev.withoutFront rest).abortJob.reply o.hdr .ok [] := by
    rw [checkedBody_of_fits _ fits, abortOrder, if_pos isActive]
  obtain ⟨hp, rf, ls, departed, same, fetches, writes, rings, ports, pipes⟩ := (s.dev.withoutFront rest).abortJob_eq
  rw [same] at answers settled
  have result := State.run_answered_settled (kind := (·.isCode 6)) offered ofCode answers rfl settled
  exact ⟨_, result, rfl, rfl, rfl, rfl, rfl, rfl, offered.1.1, rfl, rfl, fetches, writes, rings, rfl, rfl, rfl,
    fun p r => ⟨rget_mapRows _ p r _, pipes p r⟩, ports⟩

/-! ### STOP_JOB (R78, R91, R121, R122) -/

theorem Device.endStopping_eq (d : Device) : ∃ hp rf, d.endStopping = { d with
    hp := hp
    rf := rf
    ls := d.ls.killFetches (fun _ _ => true)
    pu := d.calmRows.pu
    ou := { d.ou with devEvents := d.ou.devEvents ||| 64 }
    pc := { d.pc with job := .config, qualifier := none } } ∧
    (∀ p, vget hp p = (d.port p).jobEnded true (d.pipe p)) ∧ ∀ p r, rget rf p r = (d.pipe p r).jobEnded true := by
  obtain ⟨hp, rf, same, ports, pipes⟩ := d.calmRows.endPipelines_eq true
  unfold Device.endStopping
  rw [same]
  exact ⟨hp, rf, rfl, ports, pipes⟩

theorem Device.endStopping_settled {d : Device} (settled : d.settled) : d.endStopping.settled := by
  obtain ⟨hp, rf, same, _⟩ := d.endStopping_eq
  rw [same]
  exact Device.settled_of_killed (sel := fun _ _ => true) settled (Or.inr rfl) rfl

/-- The slots of the announced pages removed, and a landing of their lines abandoned (R78, R91). -/
def Device.linesGone (d : Device) (tags : List Tag) : Device :=
  if d.landingOf tags then (d.modRings (Ring.removeTags · tags)).abandonLanding else d.modRings (Ring.removeTags · tags)

theorem Device.linesGone_eq (d : Device) (tags : List Tag) : ∃ service, d.linesGone tags = { d with
    le := if d.landingOf tags then none else d.le
    ls := { d.ls with
      rings := vmap (Option.map (Ring.removeTags · tags)) d.ls.rings
      writeQ := if d.landingOf tags then [] else d.ls.writeQ
      service := service } } := by
  unfold Device.linesGone
  cases d.landingOf tags with
  | true => exact ⟨_, rfl⟩
  | false => exact ⟨_, rfl⟩

theorem Device.linesGone_settled {d : Device} (settled : d.settled) (tags : List Tag) : (d.linesGone tags).settled := by
  have ringsGone : (d.modRings (Ring.removeTags · tags)).settled := settled
  unfold Device.linesGone
  split
  · exact Device.abandonLanding_settled ringsGone
  · exact ringsGone

/-- STOP_JOB in RUN, before it is known whether records are left. -/
def Device.stopping (d : Device) : Device :=
  { d.linesGone ((d.pc.queue.filter PageRec.isAnnounced).map (·.tag)) with
    pc := { d.pc.remove PageRec.isAnnounced with anchor := none } }

theorem Device.stopJob_eq (d : Device) : d.stopJob =
    if d.pc.queue.filter (fun q => !q.isAnnounced) = [] then d.stopping.endStopping
    else { d.stopping with pc := { d.stopping.pc with job := .stopping } } := rfl

theorem Device.stopping_settled {d : Device} (settled : d.settled) : d.stopping.settled :=
  Device.settled_congr (Device.linesGone_settled settled _) rfl rfl rfl rfl

theorem Device.stopJob_settled {d : Device} (settled : d.settled) : d.stopJob.settled := by
  rw [Device.stopJob_eq]
  split
  · exact Device.endStopping_settled (Device.stopping_settled settled)
  · exact Device.stopping_settled settled

/-- Settles O29: by whether a record is left. -/
theorem stopJobEndsJob : Obligations.StopJobEndsJob := by
  intro s o rest offered code body
  have fits : o.fits = true := by simp [OrderParcel.fits, bodyFits, code, body]
  have ofCode : o.isCode 5 = true := (o.isCode_iff 5).2 (by rw [code]; rfl)
  refine ⟨fun config => State.run_fitting offered (·.isCode 5) stopOrder ofCode fits .notRunning [] (by rw [stopOrder, config]),
    fun stopping => State.run_fitting offered (·.isCode 5) stopOrder ofCode fits .ok [] (by rw [stopOrder, stopping]), fun run => ?_⟩
  have settled := Device.stopJob_settled (Device.withoutFront_settled offered.1.2 rest)
  have answers : checkedBody stopOrder o (s.dev.withoutFront rest) = (s.dev.withoutFront rest).stopJob.reply o.hdr .ok [] := by
    rw [checkedBody_of_fits _ fits, stopOrder, run]
  obtain ⟨service, gone⟩ := (s.dev.withoutFront rest).linesGone_eq ((s.dev.pc.queue.filter PageRec.isAnnounced).map (·.tag))
  rw [Device.stopJob_eq, Device.stopping, gone] at answers settled
  have left : (s.dev.withoutFront rest).pc.queue.filter (fun q => !q.isAnnounced) =
      s.dev.pc.queue.filter (fun q => q.state != .announced) := rfl
  rw [left] at answers settled
  by_cases empty : s.dev.pc.queue.filter (fun q => q.state != .announced) = []
  · rw [if_pos empty] at answers settled
    obtain ⟨hp, rf, same, ports, pipes⟩ := Device.endStopping_eq _
    rw [same] at answers settled
    have result := State.run_answered_settled (kind := (·.isCode 5)) offered ofCode answers rfl settled
    refine ⟨_, result, rfl, rfl, rfl, rfl, rfl, rfl, rfl, offered.1.1, fun p => vget_vmap _ p _, rfl, rfl, (if_pos empty).symm, ?_,
      (if_pos empty).symm, rfl, fun p r => ⟨?_, ?_⟩, fun p => ?_⟩
    · simp only [if_pos empty]
      rfl
    · exact (rget_mapRows _ p r _).trans (if_pos empty).symm
    · exact (pipes p r).trans (if_pos empty).symm
    · exact (ports p).trans (if_pos empty).symm
  · rw [if_neg empty] at answers settled
    have result := State.run_answered_settled (kind := (·.isCode 5)) offered ofCode answers rfl settled
    refine ⟨_, result, rfl, rfl, rfl, rfl, rfl, rfl, rfl, offered.1.1, fun p => vget_vmap _ p _, rfl, rfl, (if_neg empty).symm, ?_,
      (if_neg empty).symm, rfl, fun p r => ⟨(if_neg empty).symm, (if_neg empty).symm⟩, fun p => (if_neg empty).symm⟩
    simp only [if_neg empty]
    rfl

end Sys2Proof.Machine
end

section
/-! PROOFS. Rows made ready all at once, and the fetches that they raise at the arbiters (R93, R129, R138, R139, R143). -/

namespace Sys2Proof.Machine

/-! ### What making rows ready changes -/

/-- `b` is `a` but for ports, pipelines and fetches raised behind those of `a`. -/
structure Device.Raises (a b : Device) : Prop where
  same : b = { a with ls := { a.ls with fetchRaised := b.ls.fetchRaised }, rf := b.rf, hp := b.hp }
  raised : ∀ f ∈ a.ls.fetchRaised, f ∈ b.ls.fetchRaised

namespace Device.Raises
variable {a b c : Device}

theorem refl (a : Device) : a.Raises a := ⟨rfl, fun _ => id⟩

theorem trans (h : a.Raises b) (k : b.Raises c) : a.Raises c := ⟨by rw [k.same, h.same], fun f mem => k.raised f (h.raised f mem)⟩

theorem tab (h : a.Raises b) : b.tab = a.tab := by rw [h.same]
theorem now (h : a.Raises b) : b.now = a.now := by rw [h.same]
theorem pc (h : a.Raises b) : b.pc = a.pc := by rw [h.same]
theorem pu (h : a.Raises b) : b.pu = a.pu := by rw [h.same]
theorem cp (h : a.Raises b) : b.cp = a.cp := by rw [h.same]
theorem ou (h : a.Raises b) : b.ou = a.ou := by rw [h.same]
theorem head (h : a.Raises b) (p : PortIx) : b.head p = a.head p := by rw [Device.head, h.tab, Device.head]
theorem ring (h : a.Raises b) (p : PortIx) : b.ring p = a.ring p := by rw [h.same]; rfl
theorem jobActive (h : a.Raises b) : b.jobActive = a.jobActive := by rw [Device.jobActive, h.pc, Device.jobActive]
theorem standing (h : a.Raises b) (p : PortIx) (r : RowIx) : b.standing p r = a.standing p r := by
  rw [Device.standing, Device.rowPos, h.pu]
  rfl
theorem rowEnabled (h : a.Raises b) (p : PortIx) (r : RowIx) : b.rowEnabled p r = a.rowEnabled p r := by
  rw [Device.rowEnabled, h.head, Device.rowEnabled]
theorem printing (h : a.Raises b) {p : PortIx} (state : (b.port p).state = (a.port p).state) (r : RowIx) :
    b.printing p r = a.printing p r := by
  rw [Device.printing, h.rowEnabled, state, Device.printing]

/-- A fetch raised before is still raised. -/
theorem fetchRaised (h : a.Raises b) {p : PortIx} {r : RowIx} {g : Ring} {pl : PageLine} (asked : a.fetchRaised p r g pl) :
    b.fetchRaised p r g pl := by
  obtain ⟨f, i, k, mem, rest⟩ := asked
  exact ⟨f, i, k, h.raised f mem, rest⟩

end Device.Raises

section Steps
variable (d : Device) (p : PortIx) (r : RowIx)

theorem Device.raises_modPipe (f : Pipeline → Pipeline) : d.Raises (d.modPipe p r f) := ⟨rfl, fun _ => id⟩

theorem Device.raises_modPort (f : HeadPort → HeadPort) : d.Raises (d.modPort p f) := ⟨rfl, fun _ => id⟩

theorem Device.raises_raiseFetch (pl : PageLine) (g : Ring) (i : Nat) : d.Raises (d.raiseFetch p r pl g i) :=
  ⟨rfl, fun f mem => (mem_insertFetch _ f _).2 (Or.inr mem)⟩

theorem Device.raises_resolveFetch : d.Raises (d.resolveFetch p r) := by
  unfold Device.resolveFetch
  dsimp only
  split
  · split
    · exact (d.raises_modPipe p r _).trans (Device.raises_raiseFetch _ p r _ _ _)
    · exact d.raises_modPipe p r _
    · exact d.raises_modPipe p r _
  · exact .refl d

theorem Device.raises_fillStage : d.Raises (d.fillStage p r) := by
  unfold Device.fillStage
  split
  · have cleared := d.raises_modPipe p r (fun q => { q with missing := false })
    dsimp only
    split
    · exact cleared.trans (Device.raises_resolveFetch _ p r)
    · exact cleared.trans (Device.raises_modPipe _ p r _)
  · exact .refl d

theorem Device.raises_handOver : d.Raises (d.handOver p r) := by
  unfold Device.handOver
  split
  · split
    · exact ((d.raises_modPort p _).trans (Device.raises_modPipe _ p r _)).trans (Device.raises_fillStage _ p r)
    · exact .refl d
  · exact .refl d

theorem Device.raises_prepare : d.Raises (d.prepare p r) := (d.raises_fillStage p r).trans (Device.raises_handOver _ p r)

/-! ### One row -/

/-- An EMPTY stage that a printing row has FETCHING afterwards had its fetch raised. -/
theorem Device.prepare_raised {g : Ring} (ring : d.ring p = some g) {x : Pos} {pl : PageLine} (empty : (d.pipe p r).stage = .empty)
    (fetching : ((d.prepare p r).pipe p r).stage = .fetching x pl) : (d.prepare p r).fetchRaised p r g pl := by
  have raises := d.raises_fillStage p r
  by_cases runs : d.jobActive = true ∧ d.printing p r = true
  · obtain ⟨active, prints⟩ := runs
    have filled := d.fillStage_pipe p r active prints
    cases hand : ((d.fillStage p r).pipe p r).toHand with
    | none =>
      have still := Device.handOver_of_none _ p r hand
      rw [Device.prepare, still] at fetching ⊢
      exact d.fillStage_raised p r ring empty fetching
    | some y =>
      have pattern : ¬ ((d.head p).testMode = .normal ∨ (d.head p).testMode = .mute) := fun mode => by
        rw [filled, Pipeline.filled, if_pos empty] at hand
        simp only [Pipeline.toHand, stageFor, if_pos mode] at hand
        split at hand
        · next staged =>
          split at staged
          · split at staged
            · split at staged <;> cases staged
            · split at staged <;> cases staged
          · cases staged
        · cases hand
      have handed := Device.handOver_pipe_of_some _ p r hand (by rw [Device.fillStage_printing]; exact prints)
      rw [Device.fillStage_jobActive, if_pos active, raises.head] at handed
      rw [Device.prepare, handed, Pipeline.filled, if_pos rfl] at fetching
      simp only [stageFor, if_neg pattern] at fetching
      cases fetching
  · have still : d.fillStage p r = d := d.fillStage_of_not p r (by
      rw [not_and_or, Bool.not_eq_true, Bool.not_eq_true] at runs
      exact runs.elim Or.inl fun x => Or.inr (Or.inl x))
    have none_ : (d.pipe p r).toHand = none := by
      rw [Pipeline.toHand, empty]
      cases (d.pipe p r).latch <;> rfl
    rw [Device.prepare, still, d.handOver_of_none p r none_, empty] at fetching
    cases fetching

end Steps

/-! ### Every row -/

/-- `b` raises what `a` raised, and a row of a port stands in it as in `a`, its port in the same state. -/
structure Device.RowAwaits (p : PortIx) (r : RowIx) (a b : Device) : Prop where
  raises : a.Raises b
  pipe : b.pipe p r = a.pipe p r
  state : (b.port p).state = (a.port p).state

section All
variable (d : Device)

theorem Device.raises_prepareAll : d.Raises d.prepareAll :=
  foldl_keeps (Q := d.Raises) (fun (e : Device) (k : PortIx × RowIx) => e.prepare k.1 k.2) allPortRows
    (fun e k raises => raises.trans (e.raises_prepare k.1 k.2)) d (.refl d)

theorem Device.prepareAll_split (p : PortIx) (r : RowIx) :
    ∃ e, d.RowAwaits p r e ∧ (e.prepare p r).RowAwaits p r d.prepareAll :=
  foldl_split (S := Device.RowAwaits p r) (fun a => ⟨.refl a, rfl, rfl⟩)
    (fun h k => ⟨h.raises.trans k.raises, k.pipe.trans h.pipe, k.state.trans h.state⟩)
    (fun (e : Device) (k : PortIx × RowIx) => e.prepare k.1 k.2) (p, r)
    (fun e k ne => ⟨e.raises_prepare k.1 k.2,
      (e.localTo_prepare (p := k.1) (r := k.2) (R := (· = k.2)) rfl).pipe p r fun is => ne (Prod.ext is.1 is.2),
      e.prepare_state k.1 k.2 p⟩)
    allPortRows allPortRows_nodup (mem_allPortRows p r) d

theorem Device.prepareAll_pipe (active : d.jobActive = true) (p : PortIx) (r : RowIx) : d.prepareAll.pipe p r =
    if d.printing p r then (d.pipe p r).prepared (d.head p) d.pc (d.ring p) (d.standing p r) else d.pipe p r := by
  obtain ⟨e, before, after⟩ := d.prepareAll_split p r
  have prints : e.printing p r = d.printing p r := before.raises.printing before.state r
  rw [after.pipe]
  cases printing : d.printing p r with
  | false => rw [e.prepare_of_not_printing p r (prints.trans printing), before.pipe]; rfl
  | true =>
    rw [if_pos rfl, e.prepare_pipe p r (before.raises.jobActive.trans active) (prints.trans printing), before.pipe, before.raises.head,
      before.raises.pc, before.raises.ring, before.raises.standing]

theorem Device.prepareAll_state (p : PortIx) : (d.prepareAll.port p).state = (d.port p).state := by
  obtain ⟨e, before, after⟩ := d.prepareAll_split p 0
  rw [after.state, e.prepare_state, before.state]

theorem Device.prepareAll_raised {p : PortIx} {r : RowIx} {g : Ring} (ring : d.ring p = some g) {x : Pos} {pl : PageLine}
    (empty : (d.pipe p r).stage = .empty) (fetching : (d.prepareAll.pipe p r).stage = .fetching x pl) :
    d.prepareAll.fetchRaised p r g pl := by
  obtain ⟨e, before, after⟩ := d.prepareAll_split p r
  rw [after.pipe] at fetching
  exact after.raises.fetchRaised (e.prepare_raised p r ((before.raises.ring p).trans ring) (by rw [before.pipe, empty]) fetching)

theorem Pipeline.filled_filled (h : HeadDescr) (pc : PageControl) (ring : Option Ring) (z : Pos) (q : Pipeline) :
    (q.filled h pc ring z).filled h pc ring z = q.filled h pc ring z := by
  by_cases empty : q.stage = .empty
  · have once : q.filled h pc ring z = { q with
        stage := (stageFor h pc ring (nextTarget q.latch z)).1, missing := (stageFor h pc ring (nextTarget q.latch z)).2 } := if_pos empty
    rw [once, Pipeline.filled]
    split <;> rfl
  · rw [show q.filled h pc ring z = q from if_neg empty, show q.filled h pc ring z = q from if_neg empty]

/-- A port none of whose rows hands a line over stays as it is. -/
theorem Device.prepareAll_port (active : d.jobActive = true) {p : PortIx}
    (none_ : ∀ r, d.printing p r = true → ((d.pipe p r).filled (d.head p) d.pc (d.ring p) (d.standing p r)).toHand = none) :
    d.prepareAll.port p = d.port p := by
  let filled : RowIx → Pipeline := fun r => (d.pipe p r).filled (d.head p) d.pc (d.ring p) (d.standing p r)
  have kept := foldl_keeps
    (Q := fun (e : Device) => d.Raises e ∧ e.port p = d.port p ∧ ∀ r, e.pipe p r = d.pipe p r ∨ e.pipe p r = filled r)
    (fun (e : Device) (k : PortIx × RowIx) => e.prepare k.1 k.2) allPortRows (fun e k ⟨raises, port, pipes⟩ => ?_) d
    ⟨.refl d, rfl, fun r => Or.inl rfl⟩
  · exact kept.2.1
  · obtain ⟨q, r⟩ := k
    have local_ := e.localTo_prepare (p := q) (r := r) (R := (· = r)) rfl
    refine ⟨raises.trans (e.raises_prepare q r), ?_⟩
    by_cases here : q = p
    · subst here
      have prints : e.printing q r = d.printing q r := raises.printing (by rw [port]) r
      cases printing : d.printing q r with
      | false =>
        rw [e.prepare_of_not_printing q r (prints.trans printing)]
        exact ⟨port, pipes⟩
      | true =>
        have isActive := raises.jobActive.trans active
        have isFilled : (e.pipe q r).filled (e.head q) e.pc (e.ring q) (e.standing q r) = filled r := by
          rw [raises.head, raises.pc, raises.ring, raises.standing]
          rcases pipes r with same | already
          · rw [same]
          · rw [already]
            exact Pipeline.filled_filled _ _ _ _ _
        have hand := none_ r printing
        refine ⟨?_, fun s => ?_⟩
        · rw [e.prepare_port q r isActive (prints.trans printing), isFilled, hand]
          exact port
        · by_cases row : s = r
          · subst row
            rw [e.prepare_pipe q s isActive (prints.trans printing), Pipeline.prepared]
            simp only [isFilled]
            rw [show (filled s).toHand = none from hand]
            exact Or.inr rfl
          · rw [local_.pipe q s fun is => row is.2]
            exact pipes s
    · rw [local_.port p (Ne.symm here)]
      exact ⟨port, fun s => by
        rw [local_.pipe p s fun is => here is.1.symm]
        exact pipes s⟩

end All

/-! ### Raised fetches at the arbiters (R93, R94) -/

/-- Raised fetches join their queue, and the first goes into service where the memory port is free. -/
theorem Device.grant_raised {d e : Device}
    (port : d.ls.service = none → d.ls.fetchQ = [] ∧ d.ls.writeQ = [] ∧ d.ls.window = none) (raises : d.Raises e) :
    ∃ fetchQ service, e.joinFetches.grant = { e with ls := { e.ls with fetchRaised := [], fetchQ := fetchQ, service := service } } ∧
      (∀ f ∈ e.ls.fetchRaised, f ∈ fetchQ ∨ service = some (.fetch f)) ∧
      (e.ls.fetchRaised = [] → fetchQ = e.ls.fetchQ ∧ service = e.ls.service) := by
  have service : e.ls.service = d.ls.service := by rw [raises.same]
  have fetchQ : e.ls.fetchQ = d.ls.fetchQ := by rw [raises.same]
  have writeQ : e.ls.writeQ = d.ls.writeQ := by rw [raises.same]
  have window : e.ls.window = d.ls.window := by rw [raises.same]
  cases busy : d.ls.service with
  | some v =>
    refine ⟨e.ls.fetchQ ++ e.ls.fetchRaised, e.ls.service, ?_, fun f mem => Or.inl (List.mem_append_right _ mem), fun none_ => ?_⟩
    · exact Device.grant_busy _ v (service.trans busy)
    · rw [none_, List.append_nil]
      exact ⟨rfl, rfl⟩
  | none =>
    obtain ⟨noFetch, noWrite, noWindow⟩ := port busy
    have free := service.trans busy
    cases raisedNow : e.ls.fetchRaised with
    | nil =>
      refine ⟨[], none, ?_, fun f mem => absurd mem List.not_mem_nil, fun _ => ⟨(fetchQ.trans noFetch).symm, free.symm⟩⟩
      rw [Device.joinFetches_none _ raisedNow, Device.grant_none _ (fetchQ.trans noFetch) (writeQ.trans noWrite) (window.trans noWindow)]
      conv_lhs => rw [show e = { e with ls := { e.ls with
        fetchRaised := e.ls.fetchRaised, fetchQ := e.ls.fetchQ, service := e.ls.service } } from rfl]
      rw [raisedNow, fetchQ, noFetch, free]
    | cons f fs =>
      refine ⟨fs, some (.fetch f), ?_, fun x mem => ?_, fun none_ => by cases none_⟩
      · simp only [Device.joinFetches, Device.grant, free, fetchQ, noFetch, raisedNow, List.nil_append]
      · rcases List.mem_cons.1 mem with rfl | later
        · exact Or.inr rfl
        · exact Or.inl later

/-- A command that raised fetches on a settled device, without a reply. -/
theorem Device.settle_raised {d e : Device} (settled : d.settled) (raises : d.Raises e) :
    ∃ fetchQ service, e.settle = { e with ls := { e.ls with fetchRaised := [], fetchQ := fetchQ, service := service } } ∧
      (∀ f ∈ e.ls.fetchRaised, f ∈ fetchQ ∨ service = some (.fetch f)) ∧
      (e.ls.fetchRaised = [] → fetchQ = e.ls.fetchQ ∧ service = e.ls.service) := by
  obtain ⟨fetchQ, service, granted, asked⟩ := Device.grant_raised settled.2.1 raises
  refine ⟨fetchQ, service, ?_, asked⟩
  rw [Device.settle, granted]
  exact Device.upArbitrate_kept _ (by
    change e.cp.upSending = none → _ ∧ _
    rw [raises.cp]
    exact settled.2.2)

/-- An order whose effect raised fetches on a settled device, answered at once. -/
theorem Device.settle_raised_reply {d e : Device} (settled : d.settled) (raises : d.Raises e) (h : OrderHeader) (st : Status)
    (body : List Word) :
    ∃ fetchQ service, (e.reply h st body).settle = { e with
        ls := { e.ls with fetchRaised := [], fetchQ := fetchQ, service := service }
        cp := { e.cp with
          replies := e.cp.replies ++ [answer e.cp.chainId h st body]
          upSending := some (e.cp.upSending.getD .replyQueue) } } ∧
      (∀ f ∈ e.ls.fetchRaised, f ∈ fetchQ ∨ service = some (.fetch f)) ∧
      (e.ls.fetchRaised = [] → fetchQ = e.ls.fetchQ ∧ service = e.ls.service) := by
  let cp := (e.reply h st body).cp
  have raises' : ({ d with cp := cp } : Device).Raises { e with cp := cp } := ⟨by conv_lhs => rw [raises.same], raises.raised⟩
  obtain ⟨fetchQ, service, granted, asked⟩ := Device.grant_raised (d := { d with cp := cp }) settled.2.1 raises'
  refine ⟨fetchQ, service, ?_, asked⟩
  rw [show e.reply h st body = { e with cp := cp } from rfl, Device.settle, granted]
  refine (Device.upArbitrate_replied _ (by simp [cp, Device.reply, Device.pushReply]) fun free => ?_).trans rfl
  change e.cp.returnQ = []
  change e.cp.upSending = none at free
  rw [raises.cp] at free ⊢
  exact (settled.2.2 free).2

end Sys2Proof.Machine
end

section
/-! PROOFS. Triggers: their judgement, the binding of a page, GO, the qualify time and the pitch schedule (R126 to R129). -/

namespace Sys2Proof.Machine

/-! ### Early bases (R129) -/

theorem behind_iff (a b : Pos) : behind a b = true ↔ 2147483648 ≤ (a - b).toNat := decide_eq_true_iff

theorem Device.mem_enabledRows (d : Device) (k : PortIx × RowIx) : k ∈ d.enabledRows ↔ d.rowEnabled k.1 k.2 = true := by
  rw [Device.enabledRows, List.mem_filter]
  exact ⟨And.right, fun on => ⟨mem_allPortRows k.1 k.2, on⟩⟩

theorem Device.earlyBase_iff (d : Device) (base : Pos) : d.earlyBase base = true ↔ d.early base := by
  simp only [Device.earlyBase, Device.early, Bool.or_eq_true, List.any_eq_true, Device.mem_enabledRows, Option.any_eq_true, behind_iff,
    atOrBehind_iff]
  constructor
  · rintro (limit | ⟨⟨p, r⟩, on, x, position, reached⟩)
    · exact Or.inl limit
    · exact Or.inr ⟨p, r, x, on, position, reached⟩
  · rintro (limit | ⟨p, r, x, on, position, reached⟩)
    · exact Or.inl limit
    · exact Or.inr ⟨(p, r), on, x, position, reached⟩

/-! ### Fetches asked for, before and after the arbiters' choice -/

theorem Device.fetchAsked_of_raised {b : Device} {p : PortIx} {r : RowIx} {g : Ring} {pl : PageLine} (raised : b.fetchRaised p r g pl) :
    b.fetchAsked p r g pl := by
  obtain ⟨f, i, k, mem, rest⟩ := raised
  exact ⟨f, i, k, Or.inl mem, rest⟩

theorem Device.fetchAsked_of_joined {b t : Device} {p : PortIx} {r : RowIx} {g : Ring} {pl : PageLine} (raised : b.fetchRaised p r g pl)
    (joined : ∀ f ∈ b.ls.fetchRaised, f ∈ t.ls.fetchQ ∨ t.ls.service = some (.fetch f)) : t.fetchAsked p r g pl := by
  obtain ⟨f, i, k, mem, rest⟩ := raised
  exact ⟨f, i, k, Or.inr (joined f mem), rest⟩

/-! ### A binding (R127, R129) -/

/-- Page Control after the binding of record `q`. -/
def Device.boundPages (d : Device) (q : PageRec) : PageControl :=
  { d.pc with
    queue := bindOldest d.triggerBase d.pc.queue
    boundLimit := some (d.triggerBase + BitVec.ofNat 32 q.length + BitVec.ofNat 32 d.tab.job.gap)
    anchor := if d.tab.job.source = .pitch then some d.triggerBase else d.pc.anchor
    bindingMade := true
    qualifier := if d.tab.job.source = .pitch then none else d.pc.qualifier }

theorem Device.bindPage_eq (d : Device) (q : PageRec) :
    d.bindPage q d.triggerBase = ({ d with pc := d.boundPages q } : Device).prepareAll := rfl

/-- What a binding leaves to rows, ports and fetches: device `b` is `d` but for them, and each row is made ready for its new page line. -/
structure Device.Bound (d : Device) (q : PageRec) (b : Device) : Prop where
  raises : ({ d with pc := d.boundPages q } : Device).Raises b
  pipe : ∀ p r, b.pipe p r = if d.printing p r then
    (d.pipe p r).prepared (d.head p) (d.boundPages q) (d.ring p) (d.standing p r) else d.pipe p r
  port : ∀ p, (∀ r, d.printing p r = true →
    ((d.pipe p r).filled (d.head p) (d.boundPages q) (d.ring p) (d.standing p r)).toHand = none) → b.port p = d.port p
  raised : ∀ p r g x pl, d.ring p = some g → (b.pipe p r).stage = .fetching x pl → (d.pipe p r).stage = .empty → b.fetchRaised p r g pl

theorem Device.bindPage_bound (d : Device) (active : d.jobActive = true) (q : PageRec) : d.Bound q (d.bindPage q d.triggerBase) := by
  let e : Device := { d with pc := d.boundPages q }
  have isActive : e.jobActive = true := active
  have raises := e.raises_prepareAll
  have pipes := e.prepareAll_pipe isActive
  have ports := fun p => e.prepareAll_port isActive (p := p)
  have raised := fun p r g x pl => e.prepareAll_raised (p := p) (r := r) (g := g) (x := x) (pl := pl)
  rw [show d.bindPage q d.triggerBase = e.prepareAll from d.bindPage_eq q]
  generalize e.prepareAll = b at raises pipes ports raised
  exact ⟨raises, pipes, ports, fun p r g x pl ring fetching empty => raised p r g x pl ring empty fetching⟩

/-- A device whose rows, ports, pages and counts are those that a binding left, its fetches asked for. -/
theorem Device.Bound.pageBound {d b t : Device} {q : PageRec} (bound : d.Bound q b) (ou : t.ou = b.ou) (pc : t.pc = b.pc)
    (rf : t.rf = b.rf) (hp : t.hp = b.hp)
    (asked : ∀ p r g pl, b.fetchRaised p r g pl → t.fetchAsked p r g pl) : pageBound d t q := by
  have pages : t.pc = d.boundPages q := pc.trans bound.raises.pc
  have sameOu : t.ou = d.ou := ou.trans bound.raises.ou
  have pipes : ∀ p r, t.pipe p r = b.pipe p r := fun p r => by rw [Device.pipe, rf, Device.pipe]
  have ports : ∀ p, t.port p = b.port p := fun p => by rw [Device.port, hp, Device.port]
  refine ⟨by rw [sameOu], counted_same d t (by rw [sameOu]), pages, fun p r => ?_, fun p none_ => ?_,
    fun p r g x pl ring fetching empty => ?_⟩
  · rw [pipes, pages]
    exact bound.pipe p r
  · rw [ports]
    rw [pages] at none_
    exact bound.port p none_
  · rw [pipes] at fetching
    exact asked p r g pl (bound.raised p r g x pl ring fetching empty)

theorem Device.sameAtTrigger_of {d b t : Device} {q : PageRec} (bound : d.Bound q b)
    (same : t = { b with ls := t.ls, cp := t.cp }) (rings : t.ls.rings = b.ls.rings) : d.sameAtTrigger t := by
  have ringsSame : t.ls.rings = d.ls.rings := by rw [rings, bound.raises.same]
  rw [same, bound.raises.same]
  exact ⟨rfl, rfl, rfl, rfl, rfl, ringsSame, rfl, rfl, rfl, rfl, rfl⟩

/-! ### A trigger (R128, R129) -/

/-- GO and PDI triggers. -/
def Trigger.plain : Trigger → Bool
  | .pdi => true
  | .pitch _ => false
  | .go => true

/-- A device with an event set and counted. -/
def Device.noted (d : Device) (e : DevEvent) (c : DevCounter) : Device := (d.setEvent e).count c 1

theorem counted_noted (d : Device) (e : DevEvent) (c : DevCounter) : counted d (d.noted e c) (fun k => if k = c then 1 else 0) :=
  counted_count (d.setEvent e) c 1

theorem Device.noted_settled (d : Device) (settled : d.settled) (e : DevEvent) (c : DevCounter) : (d.noted e c).settled :=
  Device.settled_congr settled rfl rfl rfl rfl

theorem Device.trigger_withoutPage {d : Device} {k : Trigger} (plain : k.plain = true)
    (noPage : d.pc.queue.find? PageRec.isAnnounced = none) :
    d.trigger k = (d.noted .triggerWithoutPage .triggersWithoutPage, .withoutPage) := by
  rw [Device.trigger, noPage]
  cases k with
  | pitch next => cases plain
  | pdi => rfl
  | go => rfl

theorem Device.trigger_early {d : Device} {k : Trigger} {q : PageRec} (page : d.pc.queue.find? PageRec.isAnnounced = some q)
    (early : d.early d.triggerBase) : d.trigger k = ((d.noted .earlyTrigger .earlyTriggers).advanceAnchor k, .early) := by
  rw [Device.trigger, page]
  exact if_pos ((d.earlyBase_iff _).2 early)

theorem Device.trigger_binds {d : Device} {k : Trigger} {q : PageRec} (page : d.pc.queue.find? PageRec.isAnnounced = some q)
    (late : ¬ d.early d.triggerBase) : d.trigger k = (d.bindPage q d.triggerBase, .bound q.tag) := by
  rw [Device.trigger, page]
  exact if_neg fun early => late ((d.earlyBase_iff _).1 early)

theorem Device.advanceAnchor_plain (d : Device) {k : Trigger} (plain : k.plain = true) : d.advanceAnchor k = d := by
  cases k with
  | pitch next => cases plain
  | pdi => rfl
  | go => rfl

/-- How a GO or PDI trigger of device `d` may end: `b` is the device after it, and it changes nothing but `b` says. -/
inductive Device.Triggered (d b : Device) : TriggerOutcome → Prop where
  | withoutPage : d.pc.queue.find? PageRec.isAnnounced = none → b = d.noted .triggerWithoutPage .triggersWithoutPage →
    d.Triggered b .withoutPage
  | early (q : PageRec) : d.pc.queue.find? PageRec.isAnnounced = some q → d.early d.triggerBase →
    b = d.noted .earlyTrigger .earlyTriggers → d.Triggered b .early
  | bound (q : PageRec) : d.pc.queue.find? PageRec.isAnnounced = some q → ¬ d.early d.triggerBase → d.Bound q b →
    d.Triggered b (.bound q.tag)

theorem Device.trigger_triggered {d : Device} (active : d.jobActive = true) {k : Trigger} (plain : k.plain = true) :
    d.Triggered (d.trigger k).1 (d.trigger k).2 := by
  cases page : d.pc.queue.find? PageRec.isAnnounced with
  | none =>
    rw [Device.trigger_withoutPage plain page]
    exact .withoutPage page rfl
  | some q =>
    by_cases early : d.early d.triggerBase
    · rw [Device.trigger_early page early, Device.advanceAnchor_plain _ plain]
      exact .early q page early rfl
    · have binds := Device.trigger_binds (k := k) page early
      have bound := d.bindPage_bound active q
      generalize d.bindPage q d.triggerBase = b at binds bound
      rw [binds]
      exact .bound q page early bound

/-- A trigger raises fetches on a device that waited for none. -/
theorem Device.Triggered.raisesFrom {d b : Device} {x : TriggerOutcome} (triggered : d.Triggered b x) (settled : d.settled) :
    ∃ d' : Device, d'.settled ∧ d'.Raises b ∧ d'.cp = d.cp := by
  cases triggered with
  | withoutPage _ same =>
    subst same
    exact ⟨d.noted .triggerWithoutPage .triggersWithoutPage, d.noted_settled settled _ _, .refl _, rfl⟩
  | early _ _ _ same =>
    subst same
    exact ⟨d.noted .earlyTrigger .earlyTriggers, d.noted_settled settled _ _, .refl _, rfl⟩
  | bound q _ _ bound => exact ⟨{ d with pc := d.boundPages q }, Device.settled_congr settled rfl rfl rfl rfl, bound.raises, rfl⟩

/-- The judgement of a trigger, its device's arbiters having chosen. -/
theorem Device.Triggered.judged {d b t : Device} {x : TriggerOutcome} (triggered : d.Triggered b x) {fetchQ : List Fetch}
    {service : Option Service} {cp : ChainPort} (settled : d.settled)
    (same : t = { b with ls := { b.ls with fetchRaised := [], fetchQ := fetchQ, service := service }, cp := cp })
    (joined : ∀ f ∈ b.ls.fetchRaised, f ∈ fetchQ ∨ service = some (.fetch f))
    (still : b.ls.fetchRaised = [] → fetchQ = b.ls.fetchQ ∧ service = b.ls.service) : triggerJudged d t x.word := by
  have kept : b.ls = d.ls → t.ls = d.ls := fun ls => by
    have raised : b.ls.fetchRaised = [] := by rw [ls, settled.1]
    obtain ⟨queue, inService⟩ := still raised
    rw [same]
    change { b.ls with fetchRaised := [], fetchQ := fetchQ, service := service } = d.ls
    rw [queue, inService, ← raised]
    exact ls
  cases triggered with
  | withoutPage page noted =>
    subst noted
    have ls := kept rfl
    refine ⟨⟨?_, ?_, ?_, ?_, ?_, by rw [ls], ?_, ?_, ?_, ?_, ?_⟩, ?_⟩
    all_goals try (rw [same]; rfl)
    rw [page]
    exact ⟨rfl, by rw [same]; rfl, by rw [same]; rfl, by rw [same]; rfl, ls, by rw [same]; rfl,
      counted_of_counts (counted_noted d .triggerWithoutPage .triggersWithoutPage) (by rw [same])⟩
  | early q page early noted =>
    subst noted
    have ls := kept rfl
    refine ⟨⟨?_, ?_, ?_, ?_, ?_, by rw [ls], ?_, ?_, ?_, ?_, ?_⟩, ?_⟩
    all_goals try (rw [same]; rfl)
    rw [page]
    exact ⟨fun _ => ⟨rfl, by rw [same]; rfl, by rw [same]; rfl, by rw [same]; rfl, ls, by rw [same]; rfl,
      counted_of_counts (counted_noted d .earlyTrigger .earlyTriggers) (by rw [same])⟩, fun late => absurd early late⟩
  | bound q page late bound =>
    refine ⟨Device.sameAtTrigger_of bound (by rw [same]) (by rw [same]), ?_⟩
    rw [page]
    refine ⟨fun early => absurd early late, fun _ => ⟨rfl, bound.pageBound (by rw [same]) (by rw [same]) (by rw [same]) (by rw [same])
      fun p r g pl raised => Device.fetchAsked_of_joined raised (by rw [same]; exact joined)⟩⟩

/-! ### GO and the qualify time -/

/-- Settles O32: the order's checks, then the trigger's judgement. -/
theorem goTriggers : Obligations.GoTriggers := by
  intro s o rest offered code body
  have fits : o.fits = true := by simp [OrderParcel.fits, bodyFits, code, body]
  have ofCode : o.isCode 8 = true := (o.isCode_iff 8).2 (by rw [code]; rfl)
  refine ⟨fun config => State.run_fitting offered (·.isCode 8) goOrder ofCode fits .notRunning []
    (if_neg (by simp [Device.jobActive, config])), fun running => ?_⟩
  let d := s.dev.withoutFront rest
  have active : d.jobActive = true := bne_iff_ne.2 running
  have settled : d.settled := Device.withoutFront_settled offered.1.2 rest
  have triggered := Device.trigger_triggered active (k := .go) rfl
  obtain ⟨d', settled', raises, cp⟩ := triggered.raisesFrom settled
  obtain ⟨fetchQ, service, settles, joined, still⟩ := Device.settle_raised_reply settled' raises o.hdr .ok [(d.trigger .go).2.word]
  have answers : checkedBody goOrder o d = (d.trigger .go).1.reply o.hdr .ok [(d.trigger .go).2.word] := by
    rw [checkedBody_of_fits _ fits, goOrder, if_pos active]
  have result := State.run_takeOrder s o rest offered (·.isCode 8) (checkedBody goOrder) ofCode
  rw [show checkedBody goOrder o (s.dev.withoutFront rest) = _ from answers, settles, raises.cp, cp] at result
  have judged := fun cp => triggered.judged (cp := cp) settled rfl joined still
  generalize d.trigger .go = x at result judged
  exact ⟨_, x.2.word, result, rfl, rfl, judged _⟩

theorem Device.qualifierActs_iff (d : Device) : d.qualifierActs = true ↔ d.pc.job ≠ .config ∧
    (d.tab.job.source = .pdi ∨ (d.tab.job.source = .pitch ∧ d.pc.bindingMade = false)) := by
  simp [Device.qualifierActs, Device.jobActive]

/-- Settles O33: by whether the qualifier acts. -/
theorem qualifyExpiryTriggers : Obligations.QualifyExpiryTriggers := by
  intro s e working qualifier reached idle acts
  have isDue : due s.dev.now s.dev.pc.qualifier = true := qualifier ▸ due_some reached
  have settled : idle.settled := Device.settled_congr working.2 rfl rfl rfl rfl
  refine ⟨fun still => ?_, fun running => ?_⟩
  · refine exec_of_settled .pdiQualifyExpiry rfl rfl working.1 ?_ settled
    exact (if_pos isDue).trans (if_neg fun yes => still (s.dev.qualifierActs_iff.1 yes))
  · have effect : s.dev.effect .pdiQualifyExpiry = (idle.trigger .pdi).1 :=
      (if_pos isDue).trans (if_pos (s.dev.qualifierActs_iff.2 running))
    have active : idle.jobActive = true := bne_iff_ne.2 running.1
    have triggered := Device.trigger_triggered active (k := .pdi) rfl
    obtain ⟨d', settled', raises, cp⟩ := triggered.raisesFrom settled
    obtain ⟨fetchQ, service, settles, joined, still⟩ := Device.settle_raised settled' raises
    have judged := triggered.judged (cp := (idle.trigger .pdi).1.cp) settled rfl joined still
    have result := exec_eq_run .pdiQualifyExpiry s rfl rfl
    rw [State.run_released _ _ working.1, effect, settles] at result
    have sameCp := raises.cp.trans cp
    generalize idle.trigger .pdi = x at result judged sameCp
    exact ⟨_, x.2.word, result, rfl, sameCp, judged⟩

/-! ### The pitch schedule (R127) -/

theorem Device.pitchScheduled_eq (d : Device) {anchor : Pos} (at_ : d.pc.anchor = some anchor) :
    d.pitchScheduled = if d.tab.job.source = .pitch ∧ d.pc.job = .run then some anchor else none := by rw [Device.pitchScheduled, at_]

theorem Device.trigger_pitch_withoutPage {d : Device} (next : Pos) (noPage : d.pc.queue.find? PageRec.isAnnounced = none) :
    (d.trigger (.pitch next)).1 = (d.noted .missedPitch .missedPitches).advanceAnchor (.pitch next) := by
  rw [Device.trigger, noPage]
  rfl

/-- The pitch schedule at a global line event. -/
theorem Device.globalLineEvent_judged (d : Device) : pitchJudged d d.globalLineEvent := by
  unfold pitchJudged
  cases at_ : d.pc.anchor with
  | none => simp [Device.globalLineEvent, Device.pitchScheduled, at_]
  | some anchor =>
    have scheduled := d.pitchScheduled_eq at_
    dsimp only
    refine ⟨fun stays => ?_, fun falls => ?_⟩
    · rw [Device.globalLineEvent, scheduled]
      by_cases runs : d.tab.job.source = .pitch ∧ d.pc.job = .run
      · rw [if_pos runs]
        exact if_neg fun count => stays ⟨runs.1, runs.2, count⟩
      · rw [if_neg runs]
    · obtain ⟨pitch, run, count⟩ := falls
      have fires : d.globalLineEvent = (d.trigger (.pitch (anchor + BitVec.ofNat 32 d.tab.job.pitch))).1 := by
        rw [Device.globalLineEvent, scheduled, if_pos ⟨pitch, run⟩]
        exact if_pos count
      rw [fires]
      cases page : d.pc.queue.find? PageRec.isAnnounced with
      | none =>
        rw [Device.trigger_pitch_withoutPage _ page]
        exact ⟨rfl, counted_of_counts (counted_noted d .missedPitch .missedPitches) rfl⟩
      | some q =>
        refine ⟨fun early => ?_, fun late => ?_⟩
        · rw [Device.trigger_early page early]
          exact ⟨rfl, counted_of_counts (counted_noted d .earlyTrigger .earlyTriggers) rfl⟩
        · have active : d.jobActive = true := by rw [Device.jobActive, run]; rfl
          have bound := d.bindPage_bound active q
          have binds := Device.trigger_binds (k := .pitch (anchor + BitVec.ofNat 32 d.tab.job.pitch)) page late
          generalize d.bindPage q d.triggerBase = b at binds bound
          rw [binds]
          exact ⟨Device.sameAtTrigger_of bound rfl rfl,
            bound.pageBound rfl rfl rfl rfl fun p r g pl raised => Device.fetchAsked_of_raised raised⟩

end Sys2Proof.Machine
end

section
/-! PROOFS. START_JOB's checks (R52 to R54, R85, R119, R165). -/

namespace Sys2Proof.Machine

/-! ### The first check that fails -/

/-- A result names the first of a list of checks that fails, none where all hold. -/
def Judges {α : Type} (checks : List (Prop × α)) : Option α → Prop
  | none => ∀ c ∈ checks, c.1
  | some w => ∃ before after holds, checks = before ++ (holds, w) :: after ∧ (∀ c ∈ before, c.1) ∧ ¬ holds

section Judging
variable {α : Type} {checks others : List (Prop × α)} {o o' : Option α}

theorem Judges.nil : Judges ([] : List (Prop × α)) none := fun _ mem => absurd mem List.not_mem_nil

theorem Judges.cons {holds fault : Prop} [Decidable fault] {w : α} (fails : fault ↔ ¬ holds) (rest : Judges checks o) :
    Judges ((holds, w) :: checks) (if fault then some w else o) := by
  by_cases failing : fault
  · rw [if_pos failing]
    exact ⟨[], checks, holds, rfl, fun _ mem => absurd mem List.not_mem_nil, fails.1 failing⟩
  · rw [if_neg failing]
    have passes : holds := not_not.1 fun no => failing (fails.2 no)
    cases o with
    | none => exact List.forall_mem_cons.2 ⟨passes, rest⟩
    | some x =>
      obtain ⟨before, after, no, split, all, not_⟩ := rest
      exact ⟨(holds, w) :: before, after, no, by rw [split]; rfl, List.forall_mem_cons.2 ⟨passes, all⟩, not_⟩

theorem Judges.append (first : Judges checks o) (second : Judges others o') : Judges (checks ++ others) (o.or o') := by
  cases o with
  | none =>
    rw [Option.none_or]
    cases o' with
    | none => exact fun c mem => (List.mem_append.1 mem).elim (first c) (second c)
    | some x =>
      obtain ⟨before, after, no, split, all, not_⟩ := second
      exact ⟨checks ++ before, after, no, by rw [split, List.append_assoc],
        fun c mem => (List.mem_append.1 mem).elim (first c) (all c), not_⟩
  | some x =>
    obtain ⟨before, after, no, split, all, not_⟩ := first
    exact ⟨before, after ++ others, no, by rw [split, List.append_assoc]; rfl, all, not_⟩

theorem Judges.flatMap {β : Type} (l : List β) {f : β → Option α} {g : β → List (Prop × α)} (each : ∀ x, Judges (g x) (f x)) :
    Judges (l.flatMap g) (l.findSome? f) := by
  induction l with
  | nil => exact Judges.nil
  | cons x l ih =>
    have both := (each x).append ih
    rw [List.flatMap_cons, List.findSome?_cons]
    cases result : f x with
    | none => rwa [result] at both
    | some y => rwa [result] at both

theorem Judges.none_iff (judged : Judges checks o) : o = none ↔ ∀ c ∈ checks, c.1 := by
  cases o with
  | none => exact ⟨fun _ => judged, fun _ => rfl⟩
  | some w =>
    obtain ⟨before, after, holds, split, _, not_⟩ := judged
    refine ⟨fun eq => absurd eq (Option.some_ne_none w), fun all => absurd (all (holds, w) ?_) not_⟩
    rw [split]
    exact List.mem_append_right _ List.mem_cons_self

/-- The first check that fails is one only. -/
theorem first_failing_unique {before before' after after' : List (Prop × α)} {holds holds' : Prop} {w w' : α}
    (same : before ++ (holds, w) :: after = before' ++ (holds', w') :: after') (all : ∀ c ∈ before, c.1) (all' : ∀ c ∈ before', c.1)
    (no : ¬ holds) (no' : ¬ holds') : w = w' := by
  induction before generalizing before' with
  | nil =>
    cases before' with
    | nil => cases same; rfl
    | cons c before' =>
      cases same
      exact absurd (all' _ List.mem_cons_self) no
  | cons c before ih =>
    cases before' with
    | nil =>
      cases same
      exact absurd (all _ List.mem_cons_self) no'
    | cons c' before' =>
      rw [List.cons_append, List.cons_append] at same
      obtain ⟨_, rest⟩ := List.cons.inj same
      exact ih rest (fun x mem => all x (List.mem_cons_of_mem c mem)) fun x mem => all' x (List.mem_cons_of_mem c' mem)

theorem Judges.some_iff (judged : Judges checks o) (w : α) : o = some w ↔
    ∃ before after holds, checks = before ++ (holds, w) :: after ∧ (∀ c ∈ before, c.1) ∧ ¬ holds := by
  constructor
  · intro eq
    rw [eq] at judged
    exact judged
  · rintro ⟨before, after, holds, split, all, not_⟩
    cases o with
    | none => exact absurd (judged (holds, w) (by rw [split]; exact List.mem_append_right _ List.mem_cons_self)) not_
    | some w' =>
      obtain ⟨before', after', holds', split', all', not'⟩ := judged
      rw [first_failing_unique (split.symm.trans split') all all' not_ not']

end Judging

/-! ### The checks of one head -/

theorem findSome?_enabled {β γ : Type} (l : List β) (on : β → Bool) (f : β → Option γ) :
    l.findSome? (fun x => if on x then f x else none) = (l.filter on).findSome? f := by
  induction l with
  | nil => rfl
  | cons x l ih =>
    rw [List.findSome?_cons, ih]
    cases yes : on x with
    | false => simp [yes]
    | true => simp [List.findSome?_cons, yes]

/-- The enabled heads in port order. -/
def Device.enabledHeads (d : Device) : List PortIx := allPorts.filter (fun p => (d.head p).enabled)

theorem Device.firstFault_eq (d : Device) (check : PortIx → Option Reason) :
    d.firstFault check = d.enabledHeads.findSome? (fun p => (check p).map (fun x => (x, p.val))) := findSome?_enabled _ _ _

theorem map_ite_some {β γ : Type} (c : Prop) [Decidable c] (x : β) (o : Option β) (f : β → γ) :
    (if c then some x else o).map f = if c then some (f x) else o.map f := by
  split <;> rfl

theorem badGeometry_iff (h : HeadDescr) : badGeometry h = true ↔
    ¬ (h.nozzles ≤ 2048 ∧ (h.origin : Int) + h.nozzles - 1 ≤ 65535) := by
  have columns : (decide (65535 < h.lastColumn)) = true ↔ 65535 < (h.origin : Int) + h.nozzles - 1 := decide_eq_true_iff
  rw [badGeometry, Bool.or_eq_true, columns, decide_eq_true_iff]
  omega

theorem badNeighbour_iff (heads : Vector HeadDescr 16) (p : PortIx) (side facing : HeadDescr → Neighbour) :
    badNeighbour heads p side facing = true ↔ ¬ ((side (vget heads p)).kind = .localPort →
      (side (vget heads p)).port ≠ p ∧ (vget heads (side (vget heads p)).port).enabled = true ∧
        (vget heads (side (vget heads p)).port).plane = (vget heads p).plane ∧
        (facing (vget heads (side (vget heads p)).port)).kind = .localPort ∧
        (facing (vget heads (side (vget heads p)).port)).port = p) := by
  simp only [badNeighbour, Bool.and_eq_true, Bool.or_eq_true, beq_iff_eq, bne_iff_ne, Bool.not_eq_true', ne_eq, Classical.not_imp,
    not_and_or, not_not, Bool.not_eq_true, or_assoc]

theorem badOverlap_iff (heads : Vector HeadDescr 16) (p : PortIx) : badOverlap heads p = true ↔
    ¬ (0 ≤ leftOverlap heads p ∧ leftOverlap heads p ≤ 64 ∧ 0 ≤ rightOverlap heads p ∧ rightOverlap heads p ≤ 64 ∧
      leftOverlap heads p + rightOverlap heads p ≤ ((vget heads p).nozzles : Int)) := by
  simp only [badOverlap, Bool.or_eq_true, decide_eq_true_eq]
  omega

theorem segmentsMeet_false_iff (a b : HeadDescr) : segmentsMeet a b = false ↔
    a.ringBase + a.ringSegments ≤ b.ringBase ∨ b.ringBase + b.ringSegments ≤ a.ringBase := by
  rw [← Bool.not_eq_true, segmentsMeet, Bool.and_eq_true, decide_eq_true_eq, decide_eq_true_eq]
  omega

theorem ringOverlap_iff (d : Device) (p : PortIx) :
    (allPorts.any (fun q => q != p && (d.head q).enabled && segmentsMeet (d.head p) (d.head q))) = true ↔
      ¬ ∀ q, q ≠ p → (d.head q).enabled = true → (d.head p).ringBase + (d.head p).ringSegments ≤ (d.head q).ringBase ∨
        (d.head q).ringBase + (d.head q).ringSegments ≤ (d.head p).ringBase := by
  simp only [List.any_eq_true, mem_allPorts, true_and, Bool.and_eq_true, bne_iff_ne, not_forall, ← segmentsMeet_false_iff,
    Bool.not_eq_false, exists_prop, and_assoc]

/-! ### The spread of a head's delays (R85) -/

theorem le_foldl_max (l : List Nat) (start : Nat) : start ≤ l.foldl max start ∧ ∀ x ∈ l, x ≤ l.foldl max start := by
  induction l generalizing start with
  | nil => exact ⟨le_rfl, fun _ mem => absurd mem List.not_mem_nil⟩
  | cons y l ih =>
    obtain ⟨le, all⟩ := ih (max start y)
    exact ⟨(le_max_left _ _).trans le, List.forall_mem_cons.2 ⟨(le_max_right _ _).trans le, all⟩⟩

theorem foldl_max_mem (l : List Nat) (start : Nat) : l.foldl max start = start ∨ l.foldl max start ∈ l := by
  induction l generalizing start with
  | nil => exact Or.inl rfl
  | cons y l ih =>
    rw [List.foldl_cons]
    rcases ih (max start y) with eq | mem
    · rw [eq]
      rcases le_total start y with le | le
      · rw [max_eq_right le]
        exact Or.inr List.mem_cons_self
      · rw [max_eq_left le]
        exact Or.inl rfl
    · exact Or.inr (List.mem_cons_of_mem y mem)

theorem foldl_min_le (l : List Nat) (start : Nat) : l.foldl min start ≤ start ∧ ∀ x ∈ l, l.foldl min start ≤ x := by
  induction l generalizing start with
  | nil => exact ⟨le_rfl, fun _ mem => absurd mem List.not_mem_nil⟩
  | cons y l ih =>
    obtain ⟨le, all⟩ := ih (min start y)
    exact ⟨le.trans (min_le_left _ _), List.forall_mem_cons.2 ⟨le.trans (min_le_right _ _), all⟩⟩

theorem foldl_min_mem (l : List Nat) (start : Nat) : l.foldl min start = start ∨ l.foldl min start ∈ l := by
  induction l generalizing start with
  | nil => exact Or.inl rfl
  | cons y l ih =>
    rw [List.foldl_cons]
    rcases ih (min start y) with eq | mem
    · rw [eq]
      rcases le_total start y with le | le
      · rw [min_eq_left le]
        exact Or.inl rfl
      · rw [min_eq_right le]
        exact Or.inr List.mem_cons_self
    · exact Or.inr (List.mem_cons_of_mem y mem)

/-- A ring is too small for the spread of a list of delays where two of them lie too far apart. -/
theorem spread_lt_iff (l : List Nat) (capacity : Nat) : capacity < l.foldl max 0 - l.foldl min (l.foldl max 0) + 2 ↔
    ¬ (2 ≤ capacity ∧ ∀ x ∈ l, ∀ y ∈ l, x + 2 ≤ y + capacity) := by
  obtain ⟨_, below⟩ := le_foldl_max l 0
  obtain ⟨low, above⟩ := foldl_min_le l (l.foldl max 0)
  constructor
  · rintro small ⟨two, close⟩
    rcases foldl_max_mem l 0 with zero | top
    · omega
    · rcases foldl_min_mem l (l.foldl max 0) with same | bottom
      · omega
      · have := close _ top _ bottom
        omega
  · intro apart
    by_contra large
    refine apart ⟨by omega, fun x memX y memY => ?_⟩
    have := below x memX
    have := above y memY
    omega

theorem mem_headDelays (h : HeadDescr) (rows : Vector RowDescr 4) (n : Nat) :
    n ∈ headDelays h rows ↔ ∃ r : RowIx, r.val < h.rowCount ∧ (vget rows r).delay = n := by
  simp [headDelays]

theorem ringTooSmall_iff (h : HeadDescr) (rows : Vector RowDescr 4) (capacity : Nat) : capacity < delaySpread h rows + 2 ↔
    ¬ (2 ≤ capacity ∧ ∀ r r' : RowIx, r.val < h.rowCount → r'.val < h.rowCount →
      (vget rows r).delay + 2 ≤ (vget rows r').delay + capacity) := by
  rw [delaySpread, spread_lt_iff]
  simp only [mem_headDelays]
  refine not_congr (and_congr_right fun _ => ⟨fun all r r' on on' => all _ ⟨r, on, rfl⟩ _ ⟨r', on', rfl⟩, ?_⟩)
  rintro all _ ⟨r, on, rfl⟩ _ ⟨r', on', rfl⟩
  exact all r r' on on'

/-- Settles O28: the list of the checks, each against the fault that stands for it. -/
theorem startJobChecks : Obligations.StartJobChecks := by
  refine ⟨fun s o rest offered code body => ?_, rfl, fun d => ?_⟩
  · have fits : o.fits = true := by simp [OrderParcel.fits, bodyFits, code, body]
    have ofCode : o.isCode 4 = true := (o.isCode_iff 4).2 (by rw [code]; rfl)
    refine ⟨fun running => State.run_fitting offered (·.isCode 4) startOrder ofCode fits .notConfig []
      (if_pos (bne_iff_ne.2 running)), fun why port config fault => ?_⟩
    refine State.run_fitting offered (·.isCode 4) startOrder ofCode fits .badSetting _ ?_
    refine (if_neg (by simp [Device.jobActive, config])).trans ?_
    rw [show (s.dev.withoutFront rest).startFault = _ from fault]
    rfl
  · extract_lets on nozzles capacity fits facing overlaps inMemory apart large checks
    have geometry : ∀ p, Judges [(fits p, Reason.badGeometry, p.val), (facing (·.left) (·.right) p ∧ facing (·.right) (·.left) p,
        .badNeighbour, p.val), (overlaps p, .badOverlap, p.val)] ((headGeometryFault d.tab.heads p).map (fun x => (x, p.val))) :=
      fun p => by
        rw [headGeometryFault, map_ite_some, map_ite_some, map_ite_some]
        refine .cons (badGeometry_iff _) (.cons ?_ (.cons (badOverlap_iff _ _) .nil))
        rw [Bool.or_eq_true, badNeighbour_iff, badNeighbour_iff, not_and_or]
        exact Iff.rfl
    have rings : ∀ p, Judges [(inMemory p, Reason.ringRange, p.val), (apart p, .ringOverlap, p.val), (large p, .ringTooSmall, p.val)]
        ((headRingFault d p).map (fun x => (x, p.val))) := fun p => by
      rw [headRingFault, map_ite_some, map_ite_some, map_ite_some]
      exact .cons Nat.not_le.symm (.cons (ringOverlap_iff d p) (.cons (ringTooSmall_iff _ _ _) .nil))
    have ready : ∀ p, Judges [((d.port p).state = .ready, Reason.portNotReady, p.val)]
        ((headReadyFault d p).map (fun x => (x, p.val))) := fun p => by
      have turned : headReadyFault d p = if ¬ (d.port p).state = .ready then some .portNotReady else none := by
        rw [headReadyFault, ite_not]
      rw [turned, map_ite_some]
      exact .cons Iff.rfl .nil
    have heads := ((Judges.flatMap on geometry).append (Judges.flatMap on rings)).append (Judges.flatMap on ready)
    have noHeads : (allPorts.all (fun p => !(d.head p).enabled)) = true ↔ ¬ ∃ p, (d.head p).enabled = true := by
      simp
    have zero : d.tab.job.pitchRatio = 0 ↔ ¬ d.tab.job.pitchRatio ≠ 0 := not_not.symm
    have judged : Judges checks d.startFault := by
      rw [Device.startFault, Device.firstFault_eq, Device.firstFault_eq, Device.firstFault_eq]
      have all := Judges.cons (w := (Reason.badR, 16)) zero (Judges.cons (w := (Reason.noHeads, 16)) noHeads heads)
      rw [← List.map_eq_flatMap] at all
      exact all
    exact ⟨judged.none_iff, judged.some_iff⟩

end Sys2Proof.Machine
end

section
/-! PROOFS. An accepted START_JOB (R83, R92, R106, R116, R120, R154). -/

namespace Sys2Proof.Machine

/-! ### Rows made ready where no page stands in the queue -/

theorem Device.fillStage_ls {d : Device} (empty : d.pc.queue = []) (p : PortIx) (r : RowIx) : (d.fillStage p r).ls = d.ls := by
  have noPage : ∀ x, d.pc.pageLine x = none := fun x => by rw [PageControl.pageLine, empty]; rfl
  unfold Device.fillStage
  split
  · dsimp only
    split
    · rw [Device.resolveFetch, show (d.modPipe p r _).pc.pageLine _ = none from noPage _]
      rfl
    · rfl
  · rfl

theorem Device.handOver_ls {d : Device} (empty : d.pc.queue = []) (p : PortIx) (r : RowIx) : (d.handOver p r).ls = d.ls := by
  unfold Device.handOver
  split
  · split
    · exact (Device.fillStage_ls (d := Device.modPipe (d.modPort p _) p r _) empty p r).trans rfl
    · rfl
  · rfl

theorem Device.prepare_ls {d : Device} (empty : d.pc.queue = []) (p : PortIx) (r : RowIx) : (d.prepare p r).ls = d.ls :=
  (Device.handOver_ls (d := d.fillStage p r) (by rw [(d.raises_fillStage p r).pc, empty]) p r).trans (Device.fillStage_ls empty p r)

theorem Device.prepareAll_ls {d : Device} (empty : d.pc.queue = []) : d.prepareAll.ls = d.ls :=
  (foldl_keeps (Q := fun (e : Device) => e.pc = d.pc ∧ e.ls = d.ls) (fun (e : Device) (k : PortIx × RowIx) => e.prepare k.1 k.2)
    allPortRows (fun e k ⟨pc, ls⟩ => ⟨(e.raises_prepare k.1 k.2).pc.trans pc,
      (Device.prepare_ls (by rw [pc, empty]) k.1 k.2).trans ls⟩) d ⟨rfl, rfl⟩).2

/-- A row in a fetch mode has nothing to fetch where no page stands in the queue. -/
theorem Pipeline.prepared_fetch (h : HeadDescr) {pc : PageControl} (ring : Option Ring) (z : Pos) (q : Pipeline)
    (empty : pc.queue = []) (fetches : h.testMode.fetches = true) : q.emptied.prepared h pc ring z = q.emptied := by
  have noPage : ∀ x, stageFor h pc ring x = (.empty, false) := fun x => by
    unfold stageFor
    rw [if_pos ((TestMode.fetches_iff _).1 fetches), empty]
    rfl
  have filled : q.emptied.filled h pc ring z = q.emptied := by
    rw [Pipeline.filled, noPage]
    rfl
  rw [Pipeline.prepared, filled]
  rfl

/-- A row in a pattern mode hands its first line over and stages the second. -/
theorem Pipeline.prepared_pattern (h : HeadDescr) (pc : PageControl) (ring : Option Ring) (z : Pos) (q : Pipeline)
    (pattern : h.testMode.fetches = false) : q.emptied.prepared h pc ring z =
      { q.emptied with latch := .sending (z + 1), stage := .staged (z + 1 + 1) none } := by
  have staged : ∀ x, stageFor h pc ring x = (.staged x none, false) := fun x => by
    unfold stageFor
    rw [if_neg]
    rw [← TestMode.fetches_iff, pattern]
    exact Bool.false_ne_true
  have filled : q.emptied.filled h pc ring z = { q.emptied with stage := .staged (z + 1) none } := by
    rw [Pipeline.filled, staged]
    rfl
  have second : nextTarget (.sending (z + 1)) z = z + 1 + 1 := by
    have beyond : ¬ notAhead (z + 1) z := by
      have one : (z + 1 - z).toNat = 1 := by
        rw [add_sub_cancel_left]
        rfl
      rw [notAhead, one]
      decide
    simp only [nextTarget, if_neg beyond]
  rw [Pipeline.prepared, filled]
  change Pipeline.filled h pc ring z { q.emptied with stage := .empty, latch := .sending (z + 1) } = _
  rw [Pipeline.filled, staged, second]
  rfl

/-! ### The device that an accepted START_JOB sets up -/

/-- The device after an accepted START_JOB, before the rows are made ready. -/
def Device.jobSetUp (d : Device) : Device :=
  { (((d.endPipelines false).flush.establishRings).startPosition) with
    ib := .empty
    pc := { d.pc.remove (fun _ => true) with
      job := .run, boundLimit := none, anchor := none, bindingMade := false, qualifier := none, report := none } }

theorem Device.startJob_eq (d : Device) : d.startJob = d.jobSetUp.prepareAll := rfl

theorem Device.jobSetUp_eq (d : Device) : ∃ hp rf service departed, d.jobSetUp = { d with
    hp := hp
    rf := rf
    le := none
    ib := { complete := [], filling := none }
    ls := { d.ls with
      rings := Vector.ofFn (fun p => if (d.head p).enabled then some (Ring.establish (d.head p)) else none)
      fetchQ := []
      fetchRaised := []
      writeQ := []
      service := service }
    pu := { d.pu with debt := 0, phase := 0, count := 0, reference := none, intervalValid := false, rows := rowsOf d.startRow }
    pc := { d.pc with
      job := .run, queue := [], departed := departed, boundLimit := none, anchor := none, bindingMade := false, qualifier := none,
      report := none } } ∧
    (d.ls.service = none ↔ service = none) ∧
    (∀ p, vget hp p = (d.port p).jobEnded false (d.pipe p)) ∧ ∀ p r, rget rf p r = (d.pipe p r).emptied := by
  obtain ⟨hp, rf, same, ports, pipes⟩ := d.endPipelines_eq false
  let e : Device := { d with hp := hp, rf := rf, ls := d.ls.killFetches (fun _ _ => true) }
  refine ⟨hp, rf, e.flush.ls.service, (d.pc.remove (fun _ => true)).departed, ?_, ?_, ports, pipes⟩
  · unfold Device.jobSetUp
    rw [same, d.pc.remove_all]
    simp only [Device.startPosition, Device.establishRings, Device.flush, Device.abandonLanding, Device.modRings]
    rfl
  · change _ ↔ Option.map _ (Option.map _ d.ls.service) = none
    rw [Option.map_eq_none_iff, Option.map_eq_none_iff]

theorem rget_rowsOf {α : Type} (f : PortIx → RowIx → α) (p : PortIx) (r : RowIx) : rget (rowsOf f) p r = f p r := by
  simp [rget, rowsOf]

/-- Where a row stands that a START_JOB follows: one before the first line. -/
theorem standing_startRow {d : Device} {p : PortIx} {r : RowIx} (on : d.rowEnabled p r = true) (low : (rget d.tab.rows p r).fine ≤ 255) :
    (d.startRow p r).standing + 1 =
      (if (rget d.tab.rows p r).fine = 0 then 1 else 0) - BitVec.ofNat 32 (rget d.tab.rows p r).delay := by
  simp only [Device.startRow, on, if_true, RowPosition.standing]
  by_cases zero : (rget d.tab.rows p r).fine = 0
  · rw [if_pos zero, if_pos zero, if_pos rfl]
    bv_omega
  · rw [if_neg zero, if_neg zero, if_neg (by rw [Config.lineUnits]; omega)]
    bv_omega

theorem Ring.establish_eq (h : HeadDescr) : Ring.establish h =
    { base := h.ringBase, segments := h.ringSegments, slotBytes := 64 * ((h.rowCount * h.nozzlesPerRow + 255) / 256),
      blockBytes := h.nozzlesPerRow / 4,
      capacity := min 16383 (h.ringSegments * 1048576 / (64 * ((h.rowCount * h.nozzlesPerRow + 255) / 256))), rowCount := h.rowCount,
      oldest := 0, slots := [] } := rfl

/-- A START_JOB without a fault finds the port of every enabled head READY. -/
theorem Device.ready_of_noFault {d : Device} (noFault : d.startFault = none) {p : PortIx} (on : (d.head p).enabled = true) :
    (d.port p).state = .ready := by
  have all := (startJobChecks.2.2 d).1.1 noFault
  refine all ((d.port p).state = .ready, .portNotReady, p.val) (List.mem_append_right _ (List.mem_map.2 ⟨p, ?_, rfl⟩))
  exact List.mem_filter.2 ⟨mem_allPorts p, on⟩

/-- Settles O27: the device set up, and then each row made ready. -/
theorem startJobStartsRun : Obligations.StartJobStartsRun := by
  intro s o rest offered code body config noFault range
  have fits : o.fits = true := by simp [OrderParcel.fits, bodyFits, code, body]
  have ofCode : o.isCode 4 = true := (o.isCode_iff 4).2 (by rw [code]; rfl)
  let d := s.dev.withoutFront rest
  have settled : d.settled := Device.withoutFront_settled offered.1.2 rest
  have answers : checkedBody startOrder o d = d.startJob.reply o.hdr .ok [] := by
    rw [checkedBody_of_fits _ fits, startOrder, if_neg (by simp [Device.jobActive, d, config]),
      show d.startFault = none from noFault]
  obtain ⟨hp, rf, service, departed, same, free, ports, pipes⟩ := d.jobSetUp_eq
  rw [Device.startJob_eq, same] at answers
  generalize setUp : ({ d with
    hp := hp
    rf := rf
    le := none
    ib := { complete := [], filling := none }
    ls := { d.ls with
      rings := Vector.ofFn (fun p => if (d.head p).enabled then some (Ring.establish (d.head p)) else none)
      fetchQ := []
      fetchRaised := []
      writeQ := []
      service := service }
    pu := { d.pu with debt := 0, phase := 0, count := 0, reference := none, intervalValid := false, rows := rowsOf d.startRow }
    pc := { d.pc with
      job := .run, queue := [], departed := departed, boundLimit := none, anchor := none, bindingMade := false, qualifier := none,
      report := none } } : Device) = e at answers
  have eSettled : e.settled := by
    rw [← setUp]
    exact ⟨rfl, fun none_ => ⟨rfl, rfl, (settled.2.1 (free.2 none_)).2.2⟩, settled.2.2⟩
  have queue : e.pc.queue = [] := by rw [← setUp]
  have active : e.jobActive = true := by rw [← setUp]; rfl
  have raises := e.raises_prepareAll
  have rows := e.prepareAll_pipe active
  have states := e.prepareAll_state
  have ls := Device.prepareAll_ls queue
  generalize e.prepareAll = b at answers raises rows states ls
  obtain ⟨fetchQ, service', settles, _, still⟩ := Device.settle_raised_reply eSettled raises o.hdr .ok []
  obtain ⟨noFetch, sameService⟩ := still (by rw [ls]; exact eSettled.1)
  have result := State.run_takeOrder s o rest offered (·.isCode 4) (checkedBody startOrder) ofCode
  rw [show checkedBody startOrder o (s.dev.withoutFront rest) = _ from answers, settles, noFetch, sameService, ls] at result
  have ePort : ∀ p, (e.port p).state = (s.dev.port p).state := fun p => by
    rw [← setUp]
    exact (congrArg HeadPort.state (ports p)).trans rfl
  have ePipe : ∀ p r, e.pipe p r = (s.dev.pipe p r).emptied := fun p r => by
    rw [← setUp]
    exact pipes p r
  have eHead : ∀ p, e.head p = s.dev.head p := fun p => by rw [← setUp]; rfl
  have eEnabled : ∀ p r, e.rowEnabled p r = s.dev.rowEnabled p r := fun p r => by rw [Device.rowEnabled, eHead, Device.rowEnabled]
  have ePrinting : ∀ p r, e.printing p r = s.dev.rowEnabled p r := fun p r => by
    rw [Device.printing, eEnabled, ePort]
    cases on : s.dev.rowEnabled p r with
    | false => rfl
    | true =>
      have enabled : (s.dev.head p).enabled = true := by
        rw [Device.rowEnabled, Bool.and_eq_true] at on
        exact on.1
      rw [Device.ready_of_noFault noFault enabled]
      rfl
  have eStanding : ∀ p r, e.standing p r = (s.dev.startRow p r).standing := fun p r => by
    rw [← setUp]
    exact congrArg RowPosition.standing (rget_rowsOf d.startRow p r)
  simp only [ePrinting, ePipe, eHead, eStanding] at rows
  have pipeAfter : ∀ p r, (s.dev.rowEnabled p r && !(s.dev.head p).testMode.fetches) = false →
      b.pipe p r = (s.dev.pipe p r).emptied := fun p r calm => by
    rw [rows]
    cases on : s.dev.rowEnabled p r with
    | false => rfl
    | true =>
      rw [on, Bool.true_and, Bool.not_eq_false'] at calm
      exact Pipeline.prepared_fetch _ _ _ _ queue calm
  have pipePattern : ∀ p r, (s.dev.rowEnabled p r && !(s.dev.head p).testMode.fetches) = true →
      b.pipe p r = { (s.dev.pipe p r).emptied with
        latch := .sending ((s.dev.startRow p r).standing + 1)
        stage := .staged ((s.dev.startRow p r).standing + 1 + 1) none } := fun p r patterned => by
    rw [Bool.and_eq_true, Bool.not_eq_true'] at patterned
    rw [rows, if_pos patterned.1]
    exact Pipeline.prepared_pattern _ _ _ _ _ patterned.2
  rw [raises.same, ← setUp] at result
  refine ⟨_, result, rfl, rfl, rfl, rfl, rfl, rfl, rfl, rfl, rfl, rfl, rfl, fun none_ => free.1 none_, fun p => ?_, rfl,
    fun p r => ?_, fun p r => ⟨?_, ?_⟩⟩
  · exact (vget_ofFn _ p).trans rfl
  · exact (rget_rowsOf d.startRow p r).trans rfl
  · exact (states p).trans (ePort p)
  · change (b.pipe p r).lastFire = _ ∧ (b.pipe p r).hold = none ∧ (b.pipe p r).missing = false ∧ _
    cases patterned : s.dev.rowEnabled p r && !(s.dev.head p).testMode.fetches with
    | false =>
      have calm := pipeAfter p r patterned
      refine ⟨by rw [calm]; rfl, by rw [calm]; rfl, by rw [calm]; rfl, fun _ => ?_, fun yes => Bool.noConfusion yes⟩
      change (b.pipe p r).stage = _ ∧ (b.pipe p r).latch = _
      rw [calm]
      exact ⟨rfl, rfl⟩
    | true =>
      have lines := pipePattern p r patterned
      refine ⟨by rw [lines]; rfl, by rw [lines]; rfl, by rw [lines]; rfl, fun no => Bool.noConfusion no, fun _ => ?_⟩
      change (b.pipe p r).latch = _ ∧ (b.pipe p r).stage = _
      rw [Bool.and_eq_true] at patterned
      rw [lines, standing_startRow patterned.1 (range.2.2.2 p r)]
      exact ⟨rfl, rfl⟩

end Sys2Proof.Machine
end

section
/-! PROOFS. The inputs sampled, the decoder, backward edges and encoder errors (R99, R100, R102, R114, R126). -/

namespace Sys2Proof.Machine

/-! ### Inputs (R99, R126) -/

theorem Polarity.activeLevel_iff (k : Polarity) (level : Bool) : level = k.activeLevel ↔
    match k with
    | .rising => level = true
    | .falling => level = false := by
  cases k <;> rfl

theorem Device.pdiChange_kept {d : Device} {level : Bool}
    (kept : level = d.pc.pdi ∨ ¬ (d.resetPin = false ∧ d.qualifierActs = true)) :
    d.pdiChange level = { d with pc := { d.pc with pdi := level } } := by
  refine if_pos ?_
  rcases kept with same | rests
  · exact Or.inl same
  · rw [not_and_or, Bool.not_eq_false, Bool.not_eq_true] at rests
    exact Or.inr (rests.imp id fun no => by rw [no]; rfl)

theorem Device.pdiChange_acts {d : Device} {level : Bool} (changed : level ≠ d.pc.pdi) (pin : d.resetPin = false)
    (acts : d.qualifierActs = true) : d.pdiChange level = { d with pc := { d.pc with
      pdi := level
      qualifier := if d.pc.qualifier = none ∧ level = d.tab.job.polarity.activeLevel then
        some (d.now + d.tab.job.qualify * 100) else none } } := by
  refine (if_neg ?_).trans ?_
  · rw [pin, acts]
    simp [changed]
  · cases qualifier : d.pc.qualifier with
    | some e => rw [if_neg (fun h : some e = none ∧ _ => nomatch h.1)]
    | none =>
      simp only [true_and]
      split
      · rfl
      · rw [← qualifier]

/-- Settles O46: the sampling of a channel, and the cases of a change of PDI. -/
theorem inputLevelsSampled : Obligations.InputLevelsSampled := by
  refine ⟨fun s level => ⟨rfl, rfl⟩, fun s level => ?_⟩
  intro acts active result
  have actsIff : acts ↔ s.dev.resetPin = false ∧ s.dev.qualifierActs = true := by
    rw [Device.qualifierActs_iff]
  have command : ∀ {k}, s.dev.pdiChange level = { s.dev with pc := { s.dev.pc with pdi := level, qualifier := k } } →
      exec (.pdiLevelChange level) s = result k := fun {k} eq =>
    congrArg (fun d : Device => (Host.Outcome.next { s with dev := d } : Host.Outcome State Fault Refusal)) eq
  have activeIff : level = s.dev.tab.job.polarity.activeLevel ↔ active := Polarity.activeLevel_iff _ level
  refine ⟨fun kept => command ?_, fun changed running some_ => command ?_, fun changed running none_ isActive => command ?_,
    fun changed running none_ notActive => command ?_⟩
  · rw [actsIff] at kept
    exact Device.pdiChange_kept kept
  · rw [actsIff] at running
    rw [Device.pdiChange_acts changed running.1 running.2, if_neg fun h => some_ h.1]
  · rw [actsIff] at running
    rw [Device.pdiChange_acts changed running.1 running.2, if_pos ⟨none_, activeIff.2 isActive⟩]
  · rw [actsIff] at running
    rw [Device.pdiChange_acts changed running.1 running.2, if_neg fun h => notActive (activeIff.1 h.2)]

/-! ### Filtered transitions (R99, R100) -/

/-- The device once the channels that are due took their levels and the decoder the new pair. -/
def Device.pairTaken (d : Device) : Device :=
  let a := d.pu.chA.complete d.filterDue (d.channelDue d.pu.chA)
  let b := d.pu.chB.complete d.filterDue (d.channelDue d.pu.chB)
  { d with pu := { d.pu with chA := a, chB := b, pair := (a.filtered, b.filtered) } }

/-- What the decoder makes of the new pair. -/
def Device.movement (d : Device) : Movement := decodePair d.tab.job.sense d.pu.pair d.pairTaken.pu.pair

theorem Device.filteredTransition_due {d : Device} (isDue : due d.now d.filterDue = true) (order : EdgeOrder) :
    d.filteredTransition order = if d.jobActive then
      match d.movement with
      | .still => d.pairTaken
      | .forward => d.pairTaken.forwardEdge order
      | .backward => d.pairTaken.backwardEdge
      | .error => d.pairTaken.encoderError
    else d.pairTaken := if_pos isDue

theorem decodePair_spec (a b a' b' : Bool) :
    let judge := fun sense => decodePair sense (a, b) (a', b')
    let aLeading := (a = a' ∧ b ≠ b' ∧ b' = a) ∨ (b = b' ∧ a ≠ a' ∧ a' ≠ b)
    (a = a' ∧ b = b' → judge .aLeads = .still ∧ judge .bLeads = .still) ∧
    (a ≠ a' ∧ b ≠ b' → judge .aLeads = .error ∧ judge .bLeads = .error) ∧
    (a ≠ a' ∧ b = b' ∨ a = a' ∧ b ≠ b' →
      judge .aLeads = (if aLeading then .forward else .backward) ∧ judge .bLeads = (if aLeading then .backward else .forward)) := by
  revert a b a' b'
  decide

theorem rget_cancel (d : Device) (p : PortIx) (r : RowIx) :
    rget (mapRows RowPosition.cancel d.pu.rows) p r = { d.rowPos p r with timer := none } := rget_mapRows _ p r _

/-- The Position Unit after a backward edge (R102, R114). -/
def Position.backward (u : Position) (ratio : Nat) : Position :=
  { u with
    debt := min (u.debt + ratio) 1048576
    intervalValid := false
    reference := none
    rows := mapRows RowPosition.cancel u.rows }

theorem Device.backwardEdge_within {d : Device} (within : ¬ 1048576 < d.pu.debt + d.tab.job.pitchRatio) :
    d.backwardEdge = { d with pu := d.pu.backward d.tab.job.pitchRatio } := if_neg within

theorem Device.backwardEdge_beyond {d : Device} (beyond : 1048576 < d.pu.debt + d.tab.job.pitchRatio) :
    d.backwardEdge = ({ d with pu := d.pu.backward d.tab.job.pitchRatio } : Device).noted .reverseLimit .reverseLimits := if_pos beyond

theorem Device.encoderError_eq (d : Device) :
    d.encoderError = ({ d with pu := d.pu.loseReference } : Device).noted .encoderError .encoderErrors := rfl

/-- Settles O41: the decoder by its table, the edges by their equations. -/
theorem backwardEdgeAndError : Obligations.BackwardEdgeAndError := by
  refine ⟨decodePair_spec, fun s order working isDue => ?_⟩
  intro u a b taken move
  have due_ := Device.filteredTransition_due isDue order
  have settled : s.dev.pairTaken.settled := Device.settled_congr working.2 rfl rfl rfl rfl
  have movement : s.dev.movement = move := rfl
  have active : s.dev.pc.job ≠ .config → s.dev.jobActive = true := fun running => bne_iff_ne.2 running
  refine ⟨fun still => ?_, fun running backward => ?_, fun running error => ?_⟩
  · refine exec_of_settled (.filteredTransition order) rfl rfl working.1 (due_.trans ?_) settled
    by_cases config : s.dev.pc.job = .config
    · exact if_neg (by simp [Device.jobActive, config])
    · rw [if_pos (active config), movement, still.resolve_left config]
      rfl
  · have effect : s.dev.effect (.filteredTransition order) = s.dev.pairTaken.backwardEdge := by
      refine due_.trans ?_
      rw [if_pos (active running), movement, backward]
    by_cases beyond : 1048576 < s.dev.pu.debt + s.dev.tab.job.pitchRatio
    · rw [Device.backwardEdge_beyond (d := s.dev.pairTaken) beyond] at effect
      refine ⟨_, exec_of_settled (.filteredTransition order) rfl rfl working.1 effect (Device.settled_congr settled rfl rfl rfl rfl), ?_,
        rget_cancel s.dev, ?_⟩
      · simp only [u, if_pos beyond]
        rfl
      · refine counted_congr (counted_of_counts (counted_noted s.dev .reverseLimit .reverseLimits) rfl) fun c => ?_
        simp only [u, beyond, and_true]
    · rw [Device.backwardEdge_within (d := s.dev.pairTaken) beyond] at effect
      refine ⟨_, exec_of_settled (.filteredTransition order) rfl rfl working.1 effect (Device.settled_congr settled rfl rfl rfl rfl), ?_,
        rget_cancel s.dev, ?_⟩
      · simp only [u, if_neg beyond]
        rfl
      · refine counted_congr (counted_same s.dev _ rfl) fun c => ?_
        simp only [u, beyond, and_false, if_false]
  · have effect : s.dev.effect (.filteredTransition order) = s.dev.pairTaken.encoderError := by
      refine due_.trans ?_
      rw [if_pos (active running), movement, error]
    rw [Device.encoderError_eq] at effect
    exact ⟨_, exec_of_settled (.filteredTransition order) rfl rfl working.1 effect (Device.settled_congr settled rfl rfl rfl rfl), rfl,
      counted_of_counts (counted_noted s.dev .encoderError .encoderErrors) rfl⟩

end Sys2Proof.Machine
end

section
/-! PROOFS. One row of a port: hold releases, row fetches and frames sent (R137 to R144, R149). -/

namespace Sys2Proof.Machine

/-! ### Hold release (R149) -/

theorem Device.mfi_eq (d : Device) (p : PortIx) : d.mfi p = 5 * (longestWaveform (vget d.tab.waves p) + (d.head p).settle) := rfl

theorem Device.mfiPassed_iff (d : Device) (p : PortIx) (r : RowIx) :
    d.mfiPassed p r = true ↔ (d.pipe p r).lastFire + d.mfi p ≤ d.now := decide_eq_true_iff

/-- A port in READY after FIRE was raised and its idle tickle timer restarted. -/
def HeadPort.fired (hp : HeadPort) (r : RowIx) (tickleAt : Option Nat) : HeadPort :=
  if hp.state = .ready then { hp with tokens := hp.tokens ++ [.fire r], tickleAt := tickleAt } else hp

theorem Device.fire_eq (d : Device) (p : PortIx) (r : RowIx) : d.fire p r = { d with
    hp := vset d.hp p ((d.port p).fired r (d.tickleExpiry p))
    rf := rmod d.rf p r (fun q => { q with lastFire := d.now, latch := .clear, hold := none })
    ou := { d.ou with headCounts := (d.countHead p .fired 1).ou.headCounts } } := by
  by_cases ready : (d.port p).state = .ready
  · have raise : d.raiseToken p (.fire r) = d.modPort p (fun hp => { hp with tokens := hp.tokens ++ [.fire r] }) := if_pos ready
    have port := d.port_modPort_same p (fun hp => { hp with tokens := hp.tokens ++ [.fire r] })
    have readied : ((d.modPort p (fun hp => { hp with tokens := hp.tokens ++ [.fire r] })).port p).state = .ready :=
      (congrArg HeadPort.state port).trans ready
    rw [Device.fire, raise, HeadPort.fired, if_pos ready]
    refine (if_pos readied).trans ?_
    simp only [Device.countHead, Device.modPipe, Device.modPort, vmod, vget_vset_same, vset_vset]
    rfl
  · have raise : d.raiseToken p (.fire r) = d := if_neg ready
    rw [Device.fire, raise, HeadPort.fired, if_neg ready]
    refine (if_neg ready).trans ?_
    simp only [Device.countHead, Device.modPipe, Device.port, vset_vget]

section Fired
variable (d : Device) (p : PortIx) (r : RowIx)

theorem Device.fire_port : (d.fire p r).port p = (d.port p).fired r (d.tickleExpiry p) := by
  rw [Device.fire_eq]
  exact vget_vset_same _ _ _

theorem Device.fire_pipe : (d.fire p r).pipe p r = { d.pipe p r with lastFire := d.now, latch := .clear, hold := none } := by
  rw [Device.fire_eq]
  exact (rget_rmod _ _ _ _ _ _).trans (if_pos ⟨rfl, rfl⟩)

theorem Device.fire_headCounted : headCounted d (d.fire p r) (fun p' c => if p' = p ∧ c = .fired then 1 else 0) :=
  headCounted_of_counts (headCounted_countHead d p .fired 1) (by rw [Device.fire_eq])

theorem Device.fire_settled (settled : d.settled) : (d.fire p r).settled := by
  rw [Device.fire_eq]
  exact Device.settled_congr settled rfl rfl rfl rfl

theorem Device.fire_printing : (d.fire p r).printing p r = d.printing p r :=
  Device.printing_congr (by rw [Device.fire_eq]) (d.fire_state p r p) r

theorem HeadPort.takeFrame_eq (hp : HeadPort) (h : HeadDescr) (t : Pos) (codes : Option (List Nat)) :
    hp.takeFrame h r t codes = { hp with
      frames := (hp.takeFrame h r t codes).frames
      ages := (hp.takeFrame h r t codes).ages
      prbs := (hp.takeFrame h r t codes).prbs } :=
  (congrArg (fun a : HeadPort => { a with frames := (hp.takeFrame h r t codes).frames }) (hp.assemble_eq h r t codes)).trans rfl

/-- A row after its hold was released. -/
theorem Device.releaseHold_pipe : (d.releaseHold p r).pipe p r = (d.pipe p r).released (d.head p) d.pc (d.ring p) (d.standing p r) d.now
    (d.printing p r) := by
  have fired := d.fire_pipe p r
  have prints := d.fire_printing p r
  have same := d.fire_eq p r
  have head : (d.fire p r).head p = d.head p := by rw [same]; rfl
  have ring : (d.fire p r).ring p = d.ring p := by rw [same]; rfl
  have pc : (d.fire p r).pc = d.pc := by rw [same]
  have standing : (d.fire p r).standing p r = d.standing p r := by rw [same]; rfl
  have active : (d.fire p r).jobActive = decide (d.pc.job ≠ .config) := by
    rw [Device.jobActive, pc]
    cases d.pc.job <;> rfl
  have comm : ({ d.pipe p r with lastFire := d.now, latch := .clear, hold := none } : Pipeline) =
      { d.pipe p r with latch := .clear, hold := none, lastFire := d.now } := rfl
  change ((d.fire p r).handOver p r).pipe p r = _
  clear same
  generalize d.fire p r = f at fired prints head ring pc standing active
  cases printing : d.printing p r with
  | false =>
    rw [f.handOver_of_not_printing p r (prints.trans printing), fired]
    rfl
  | true =>
    cases hand : ({ d.pipe p r with latch := .clear, hold := none, lastFire := d.now } : Pipeline).toHand with
    | none =>
      rw [f.handOver_of_none p r (by rw [fired, comm, hand]), fired]
      unfold Pipeline.released
      simp only [hand]
    | some x =>
      rw [f.handOver_pipe_of_some p r (by rw [fired, comm, hand]) (prints.trans printing), fired, active, head, pc, ring, standing]
      unfold Pipeline.released
      by_cases config : d.pc.job = .config
      · simp only [hand, config, ne_eq, not_true, decide_false, Bool.false_eq_true, if_false, if_true]
      · simp only [hand, config, ne_eq, not_false_eq_true, decide_true, if_true, if_false]

/-- The port of a row whose hold was released, but for what a hand-over changes. -/
theorem Device.releaseHold_port : (d.releaseHold p r).port p = { (d.port p).fired r (d.tickleExpiry p) with
    frames := ((d.releaseHold p r).port p).frames
    ages := ((d.releaseHold p r).port p).ages
    prbs := ((d.releaseHold p r).port p).prbs } := by
  have fired := d.fire_port p r
  rw [Device.releaseHold]
  cases printing : d.printing p r with
  | false => rw [Device.handOver_of_not_printing _ p r ((d.fire_printing p r).trans printing), fired]
  | true =>
    rw [Device.handOver_port _ p r ((d.fire_printing p r).trans printing), fired]
    split
    · exact HeadPort.takeFrame_eq r _ _ _ _
    · rfl

end Fired

theorem Device.Raises.but_ls {a b : Device} (h : a.Raises b) (ls : _) : ({ b with ls := ls } : Device) =
    { a with ls := ls, rf := b.rf, hp := b.hp } :=
  (congrArg (fun b : Device => ({ b with ls := ls } : Device)) h.same).trans rfl

/-- Settles O45: the FIRE, the hand-over, and the arbiters' choice of what it raised. -/
theorem holdReleaseFires : Obligations.HoldReleaseFires := by
  intro s p r y working hold release
  have passed : s.dev.mfiPassed p r = true ↔ release ≤ s.dev.now := s.dev.mfiPassed_iff p r
  have isHeld : (s.dev.pipe p r).hold.isSome = true := by rw [hold]; rfl
  refine ⟨fun early => exec_still rfl rfl working (if_neg ?_), fun reached => ?_⟩
  · rw [Device.holdDue, isHeld, Bool.true_and, passed]
    exact Nat.not_le.2 early
  · have effect : s.dev.effect (.holdRelease p r) = s.dev.releaseHold p r := by
      refine if_pos ?_
      rw [Device.holdDue, isHeld, Bool.true_and, passed]
      exact reached
    have raises := (s.dev.fire p r).raises_handOver p r
    have local_ := s.dev.localTo_releaseHold (p := p) (r := r) (R := (· = r)) rfl
    have pipe := s.dev.releaseHold_pipe p r
    have port := s.dev.releaseHold_port p r
    have counts : headCounted s.dev (s.dev.releaseHold p r) (fun p' c => if p' = p ∧ c = .fired then 1 else 0) :=
      headCounted_of_counts (s.dev.fire_headCounted p r) (by rw [Device.releaseHold, raises.ou])
    have same := s.dev.fire_eq p r
    change (s.dev.fire p r).Raises (s.dev.releaseHold p r) at raises
    have settled := s.dev.fire_settled p r working.2
    generalize s.dev.releaseHold p r = e at effect raises local_ pipe port counts
    generalize s.dev.fire p r = f at same raises settled
    obtain ⟨fetchQ, service, settles, _⟩ := Device.settle_raised settled raises
    have result := exec_eq_run (.holdRelease p r) s rfl rfl
    rw [State.run_released _ _ working.1, effect, settles] at result
    refine ⟨_, result, rfl, ?_, headCounted_of_counts counts rfl, pipe, fun p' r' ne => ?_, fun p' ne => local_.port p' ne, fun ready => ?_⟩
    · refine (raises.but_ls _).trans ?_
      change _ = ({ s.dev with rf := e.rf, hp := e.hp, ls := _, ou := { s.dev.ou with headCounts := e.ou.headCounts } } : Device)
      rw [raises.ou, same]
    · exact local_.pipe p' r' fun is => ne (Prod.ext is.1 is.2)
    · change (e.port p).tokens = _ ∧ (e.port p).tickleAt = _
      rw [port, HeadPort.fired, if_pos ready]
      exact ⟨rfl, rfl⟩

/-! ### Row fetches (R141) -/

theorem byteCodes_get (b : Byte) : byteCodes b = (List.range 4).map (fun k => b.toNat / 4 ^ (3 - k) % 4) := by
  have digit : ∀ i n, (b.extractLsb' i 2).toNat = n ↔ b.toNat / 2 ^ i % 4 = n := fun i n => by
    rw [BitVec.extractLsb'_toNat, Nat.shiftRight_eq_div_pow]
  have each : ∀ i, (b.extractLsb' i 2).toNat = b.toNat / 2 ^ i % 4 := fun i => (digit i _).2 rfl
  simp only [byteCodes, each]
  rfl

/-- The codes of the bytes read, four a byte. -/
theorem readBytes_codes (m : List Host.Cell) (a n : Nat) : (readBytes m a n).flatMap byteCodes =
    (List.range (4 * n)).map (fun k => (readByte m (a + k / 4)).toNat / 4 ^ (3 - k % 4) % 4) := by
  induction n generalizing a with
  | zero => rfl
  | succ n ih =>
    rw [readBytes, List.flatMap_cons, ih, byteCodes_get, show 4 * (n + 1) = 4 + 4 * n by omega, List.range_add, List.map_append,
      List.map_map]
    congr 1
    refine List.map_congr_left fun k _ => ?_
    rw [Function.comp_apply, show (4 + k) / 4 = 1 + k / 4 by omega, show (4 + k) % 4 = k % 4 by omega, Nat.add_assoc]

/-- The fetch's data is dropped. -/
theorem Device.takeFetched_dropped {d : Device} {f : Fetch} (codes : List Nat)
    (dropped : (∀ x, (d.pipe f.port f.row).stage ≠ .fetching x { tag := f.tag, line := f.line }) ∨ f.live = false) :
    d.takeFetched f codes = d := by
  unfold Device.takeFetched
  split
  · next t pl stage =>
    refine if_neg fun takes => ?_
    rw [Bool.and_eq_true, beq_iff_eq] at takes
    rcases dropped with other | dead
    · exact other t (by rw [stage, takes.2])
    · rw [dead] at takes
      exact absurd takes.1 Bool.false_ne_true
  · rfl

theorem Device.takeFetched_staged {d : Device} {f : Fetch} (codes : List Nat) {x : Pos}
    (stage : (d.pipe f.port f.row).stage = .fetching x { tag := f.tag, line := f.line }) (live : f.live = true)
    (mode : (d.head f.port).testMode = .normal ∨ (d.head f.port).testMode = .mute) (late : ¬ notAhead x (d.standing f.port f.row)) :
    d.takeFetched f codes =
      (d.modPipe f.port f.row (fun q => { q with stage := .staged x (some codes) })).handOver f.port f.row := by
  rw [Device.takeFetched, stage]
  simp only [live, beq_self_eq_true, Bool.and_self, if_true, (TestMode.fetches_iff _).2 mode, (ahead_iff _ _).2 late]

theorem Device.takeFetched_passed {d : Device} {f : Fetch} (codes : List Nat) {x : Pos}
    (stage : (d.pipe f.port f.row).stage = .fetching x { tag := f.tag, line := f.line }) (live : f.live = true)
    (passed : ¬ ((d.head f.port).testMode = .normal ∨ (d.head f.port).testMode = .mute) ∨ notAhead x (d.standing f.port f.row)) :
    d.takeFetched f codes = (d.modPipe f.port f.row (fun q => { q with stage := .empty })).prepare f.port f.row := by
  rw [Device.takeFetched, stage]
  simp only [live, beq_self_eq_true, Bool.and_self, if_true]
  refine if_neg ?_
  rw [Bool.and_eq_true, TestMode.fetches_iff, ahead_iff, not_and_or, not_not]
  exact passed

/-- A completed transfer frees the memory port, which serves what waits next. -/
theorem Device.settle_completed {e : Device} (free : e.ls.service = none) (window : e.ls.window = none)
    (lane : e.cp.upSending = none → e.cp.replies = [] ∧ e.cp.returnQ = []) :
    e.settle = { e with ls := e.joinFetches.ls.freed } := by
  rw [Device.settle, Device.grant_freed e.joinFetches free window]
  exact Device.upArbitrate_kept _ lane

theorem Pipeline.filled_latch (h : HeadDescr) (pc : PageControl) (ring : Option Ring) (z : Pos) (q : Pipeline) :
    (q.filled h pc ring z).latch = q.latch := by
  unfold Pipeline.filled
  split <;> rfl

/-- A stage that an EMPTY one is filled to holds no codes. -/
theorem Pipeline.filled_noCodes (h : HeadDescr) (pc : PageControl) (ring : Option Ring) (z : Pos) {q : Pipeline}
    (none_ : ∀ x cs, q.stage ≠ .staged x (some cs)) (x : Pos) (cs : List Nat) :
    (q.filled h pc ring z).stage ≠ .staged x (some cs) := by
  unfold Pipeline.filled
  split
  · unfold stageFor
    split
    · split
      · split
        · split <;> exact Stage.noConfusion
        · split <;> exact Stage.noConfusion
      · exact Stage.noConfusion
    · exact fun eq => by cases eq
  · exact none_ x cs

/-- A row made ready without codes in its stage has none afterwards. -/
theorem Device.prepare_noCodes (d : Device) (p : PortIx) (r : RowIx) (none_ : ∀ x cs, (d.pipe p r).stage ≠ .staged x (some cs)) (x : Pos)
    (cs : List Nat) : ((d.prepare p r).pipe p r).stage ≠ .staged x (some cs) := by
  cases prints : d.printing p r with
  | false => rw [d.prepare_of_not_printing p r prints]; exact none_ x cs
  | true =>
    by_cases active : d.jobActive = true
    · rw [d.prepare_pipe p r active prints, Pipeline.prepared]
      split
      · exact Pipeline.filled_noCodes _ _ _ _ (fun _ _ => Stage.noConfusion) x cs
      · exact Pipeline.filled_noCodes _ _ _ _ none_ x cs
    · have still : d.fillStage p r = d := d.fillStage_of_not p r (Or.inl (Bool.eq_false_iff.2 active))
      rw [Device.prepare, still]
      cases hand : (d.pipe p r).toHand with
      | none => rw [d.handOver_of_none p r hand]; exact none_ x cs
      | some y =>
        rw [d.handOver_pipe_of_some p r hand prints, if_neg active]
        exact Stage.noConfusion

/-- Settles O39: by what the fetch finds of its row. -/
theorem rowFetchCompletes : Obligations.RowFetchCompletes := by
  intro s f working served window
  have command : exec .rowFetchComplete s =
      if installed s.dev.ou.memory f.addr f.len then s.run (fun d => d.fetchDone f) else .fault (.absentMemory f.addr) := by
    change execRowFetchComplete s = _
    rw [execRowFetchComplete, served]
  refine ⟨fun absent => ?_, fun present => ?_⟩
  · rw [command, if_neg]
    rw [installed, decide_eq_true_iff]
    exact Nat.not_le.2 absent
  intro q pl fetching codes
  let d : Device := { s.dev with ls := { s.dev.ls with service := none } }
  have result : exec .rowFetchComplete s = .next { s with dev := (d.takeFetched f codes).settle } := by
    have yes : installed s.dev.ou.memory f.addr f.len = true := decide_eq_true present
    rw [command, if_pos yes, State.run_released _ _ working.1, Device.fetchDone, readBytes_codes]
  have raised : s.dev.ls.fetchRaised = [] := working.2.1
  have completed : ∀ e : Device, d.Raises e → e.settle = { e with ls := e.joinFetches.ls.freed } := fun e raises =>
    Device.settle_completed (by rw [raises.same]) (by rw [raises.same]; exact window) (by rw [raises.cp]; exact working.2.2.2)
  have quiet : ∀ e : Device, d.Raises e → e.ls = d.ls → e.settle = { e with ls := s.dev.ls.freed } := fun e raises ls => by
    rw [completed e raises, Device.joinFetches_none e (by rw [ls]; exact raised), ls]
    rfl
  refine ⟨fun dropped => ?_, fun x stage live mode late keeps => ?_, fun x stage live mode late clear prints => ?_,
    fun x stage live passed => ?_⟩
  · rw [result, Device.takeFetched_dropped (d := d) codes dropped, quiet d (.refl d) rfl]
  · have staged := Device.takeFetched_staged (d := d) codes stage live mode late
    let e := d.modPipe f.port f.row (fun q => { q with stage := .staged x (some codes) })
    have pipe : e.pipe f.port f.row = { q with stage := .staged x (some codes) } := d.pipe_modPipe_same _ _ _
    have stays : e.handOver f.port f.row = e := by
      rcases keeps with busy | passing
      · refine e.handOver_of_none _ _ ?_
        rw [pipe, Pipeline.toHand]
        cases latch : q.latch with
        | clear => exact absurd latch busy
        | sending y => rfl
        | loaded y => rfl
      · exact e.handOver_of_not_printing _ _ passing
    rw [result, staged, stays, quiet e (d.raises_modPipe _ _ _) rfl]
    rfl
  · have staged := Device.takeFetched_staged (d := d) codes stage live mode late
    let e := d.modPipe f.port f.row (fun q => { q with stage := .staged x (some codes) })
    have pipe : e.pipe f.port f.row = { q with stage := .staged x (some codes) } := d.pipe_modPipe_same _ _ _
    have hand : (e.pipe f.port f.row).toHand = some (x, some codes) := by rw [pipe, Pipeline.toHand, clear]
    have raises : d.Raises (e.handOver f.port f.row) := (d.raises_modPipe _ _ _).trans (e.raises_handOver _ _)
    have handed := e.handOver_pipe_of_some _ _ hand prints
    have port := e.handOver_port _ _ prints
    rw [hand] at port
    rw [staged, completed _ raises] at result
    refine ⟨_, result, ?_, ?_, port⟩
    · exact raises.but_ls _
    · refine (congrArg Pipeline.latch handed).trans ?_
      dsimp only
      split
      · exact Pipeline.filled_latch _ _ _ _ _
      · rfl
  · have empties := Device.takeFetched_passed (d := d) codes stage live passed
    let e := d.modPipe f.port f.row (fun q => { q with stage := .empty })
    have pipe : e.pipe f.port f.row = { q with stage := .empty } := d.pipe_modPipe_same _ _ _
    have raises : d.Raises (e.prepare f.port f.row) := (d.raises_modPipe _ _ _).trans (e.raises_prepare _ _)
    rw [empties, completed _ raises] at result
    refine ⟨_, result, ?_, e.prepare_noCodes _ _ fun x cs => ?_⟩
    · exact raises.but_ls _
    · rw [pipe]
      exact Stage.noConfusion

end Sys2Proof.Machine
end

section
/-! PROOFS. The frames assembled for the heads and the frames sent (R144, R169 to R172). -/

namespace Sys2Proof.Machine

/-! ### Keep-wet (R172) -/

/-- The column of a row's nozzle among the head's. -/
def columnOf (rowCount : Nat) (r : RowIx) (n : Nat) : Nat := n * rowCount + r.val

theorem columnOf_inj {rowCount : Nat} (some_ : 1 ≤ rowCount) (r : RowIx) {n m : Nat} (eq : columnOf rowCount r n = columnOf rowCount r m) :
    n = m := Nat.eq_of_mul_eq_mul_right some_ (Nat.add_right_cancel eq)

/-- Keep-wet on one nozzle, then on those behind it. -/
theorem keepWet_cons (threshold rowCount : Nat) (r : RowIx) (k c : Nat) (cs : List Nat) (ages : List (Nat × Nat)) :
    let x := keptWet threshold c (numAt ages (columnOf rowCount r k))
    let rest := keepWet threshold rowCount r (k + 1) cs (numPut ages (columnOf rowCount r k) x.2)
    keepWet threshold rowCount r k (c :: cs) ages = (x.1 :: rest.1, rest.2) := by
  dsimp only
  rw [keepWet, keptWet, columnOf]
  by_cases dry : c = 0
  · by_cases tickles : threshold ≤ min 255 (numAt ages (k * rowCount + r.val) + 1)
    · simp only [dry, tickles, if_true, ne_eq, not_true, if_false, and_self]
    · simp only [dry, tickles, if_true, ne_eq, not_true, if_false, and_false]
  · simp only [dry, if_false, ne_eq, not_false_eq_true, if_true, false_and]

/-- Keep-wet turns each nozzle's code and age as `keptWet` says, and no other age. -/
theorem keepWet_spec (threshold : Nat) {rowCount : Nat} (some_ : 1 ≤ rowCount) (r : RowIx) (cs : List Nat) (k : Nat)
    (ages : List (Nat × Nat)) (rise : rising ages = true) :
    let out := keepWet threshold rowCount r k cs ages
    out.1.length = cs.length ∧
      (∀ n c, cs[n]? = some c →
        (out.1[n]?, numAt out.2 (columnOf rowCount r (k + n))) =
          (some (keptWet threshold c (numAt ages (columnOf rowCount r (k + n)))).1,
            (keptWet threshold c (numAt ages (columnOf rowCount r (k + n)))).2)) ∧
      (∀ j, (∀ n < cs.length, columnOf rowCount r (k + n) ≠ j) → numAt out.2 j = numAt ages j) := by
  induction cs generalizing k ages with
  | nil => exact ⟨rfl, fun n c eq => by simp at eq, fun _ _ => rfl⟩
  | cons c cs ih =>
    have put := numAt_numPut ages (columnOf rowCount r k) (rise := rise)
    have apart : ∀ n, columnOf rowCount r (k + 1 + n) ≠ columnOf rowCount r k := fun n eq => by
      have := columnOf_inj some_ r eq
      omega
    obtain ⟨length, each, others⟩ := ih (k + 1) (numPut ages (columnOf rowCount r k)
      (keptWet threshold c (numAt ages (columnOf rowCount r k))).2) (rising_numPut _ _ _ rise)
    dsimp only at length each others ⊢
    rw [keepWet_cons]
    refine ⟨congrArg (· + 1) length, fun n x at_ => ?_, fun j not => ?_⟩
    · cases n with
      | zero =>
        obtain rfl : c = x := by simpa using at_
        refine Prod.ext rfl ?_
        exact (others _ fun n _ => apart n).trans ((put _ _).trans (if_pos rfl))
      | succ n =>
        have here := each n x (by simpa using at_)
        rw [put, if_neg (apart n), show k + 1 + n = k + (n + 1) by omega] at here
        exact here
    · have tail : ∀ n < cs.length, columnOf rowCount r (k + 1 + n) ≠ j := fun n low => by
        have := not (n + 1) (Nat.succ_lt_succ low)
        rwa [show k + (n + 1) = k + 1 + n by omega] at this
      exact (others j tail).trans ((put _ _).trans (if_neg fun eq => not 0 (Nat.succ_pos _) eq.symm))

/-! ### The generators (R171) -/

/-- A generator's output at a step. -/
def prbsOut (g : BitVec 15) : Nat := (g.getLsbD 14 != g.getLsbD 13).toNat

theorem prbsStep_register (g : BitVec 15) : (prbsStep g).2 = prbsAfter g 1 := by
  refine BitVec.eq_of_getLsbD_eq fun i low => ?_
  simp only [prbsStep, prbsAfter]
  generalize (g.getLsbD 14 != g.getLsbD 13) = b
  have bit : (if b then (1 : BitVec 15) else 0).getLsbD i = (decide (i = 0) && b) := by
    cases b with
    | false => simp
    | true => simp [BitVec.getLsbD_one]
  rw [BitVec.getLsbD_or, bit, BitVec.getLsbD_append, BitVec.getLsbD_shiftLeft]
  by_cases first : i = 0
  · subst first
    simp
  · have one : ¬ i < 1 := by omega
    simp [first, one, BitVec.getLsbD_extractLsb', low]
    omega

theorem prbsAfter_add (g : BitVec 15) (m n : Nat) : prbsAfter (prbsAfter g m) n = prbsAfter g (m + n) := by
  induction n with
  | zero => rfl
  | succ n ih => rw [prbsAfter, ih]; rfl

theorem prbsCode_eq (g : BitVec 15) : prbsCode g = (2 * prbsOut g + prbsOut (prbsAfter g 1), prbsAfter g 2) := by
  have digits : ∀ a b : Bool, (if a then 2 else 0) + (if b then 1 else 0) = 2 * a.toNat + b.toNat := by decide
  simp only [prbsCode, prbsStep_register, prbsAfter_add]
  exact Prod.ext (digits _ _) rfl

theorem prbsCodes_eq (n : Nat) (g : BitVec 15) : prbsCodes n g =
    ((List.range n).map (fun i => 2 * prbsOut (prbsAfter g (2 * i)) + prbsOut (prbsAfter g (2 * i + 1))), prbsAfter g (2 * n)) := by
  induction n generalizing g with
  | zero => rfl
  | succ n ih =>
    simp only [prbsCodes, prbsCode_eq, ih, prbsAfter_add]
    refine Prod.ext ?_ (congrArg (prbsAfter g) (by omega))
    rw [List.range_succ_eq_map, List.map_cons, List.map_map]
    refine congrArg₂ List.cons rfl (List.map_congr_left fun i _ => ?_)
    simp only [Function.comp_apply, show 2 + 2 * i = 2 * i.succ by omega, show 2 + (2 * i + 1) = 2 * i.succ + 1 by omega]

/-! ### Assembly (R170) -/

section Assembling
variable (hp : HeadPort) (h : HeadDescr) (r : RowIx) (t : Pos) (codes : Option (List Nat))

theorem HeadPort.assemble_printed (mode : h.testMode = .normal ∨ h.testMode = .mute) :
    let zeros := List.replicate h.nozzlesPerRow 0
    let image := if h.testMode = .normal then codes.getD zeros else zeros
    let wet := keepWet h.keepWet h.rowCount r 0 image hp.ages
    hp.assemble h r t codes = if h.keepWet = 0 then (image, hp) else (wet.1, { hp with ages := wet.2 }) := by
  rcases mode with mode | mode
  · simp only [HeadPort.assemble, mode, if_true]
  · simp only [HeadPort.assemble, mode, reduceCtorEq, if_false]

theorem HeadPort.assemble_prbs (mode : h.testMode = .prbs) :
    hp.assemble h r t codes = ((prbsCodes h.nozzlesPerRow (vget hp.prbs r)).1,
      { hp with prbs := vset hp.prbs r (prbsCodes h.nozzlesPerRow (vget hp.prbs r)).2 }) := by
  simp only [HeadPort.assemble, mode]

theorem HeadPort.assemble_flood (mode : h.testMode = .flood) : hp.assemble h r t codes = (List.replicate h.nozzlesPerRow 3, hp) := by
  simp only [HeadPort.assemble, mode]

theorem HeadPort.assemble_ladder (mode : h.testMode = .ladder) :
    hp.assemble h r t codes = (ladderCodes h.ladderK h.rowCount h.nozzlesPerRow r t, hp) := by
  simp only [HeadPort.assemble, mode]

/-- The port of a hand-over, by what it assembles. -/
theorem HeadPort.takeFrame_of_assemble {cs : List Nat} {k : HeadPort} (out : hp.assemble h r t codes = (cs, k)) :
    hp.takeFrame h r t codes = { k with frames := k.frames ++ [{ row := r, stale := false, left := frameSyms r t cs }] } := by
  rw [HeadPort.takeFrame, out]

/-- What NORMAL and MUTE make of a port. -/
theorem HeadPort.took_printed (rise : rising hp.ages = true) (some_ : 1 ≤ h.rowCount)
    (mode : h.testMode = .normal ∨ h.testMode = .mute) : hp.took h r t codes (hp.takeFrame h r t codes) := by
  have out := hp.assemble_printed h r t codes mode
  have notPrbs : h.testMode ≠ .prbs := by rcases mode with mode | mode <;> rw [mode] <;> decide
  have notFlood : h.testMode ≠ .flood := by rcases mode with mode | mode <;> rw [mode] <;> decide
  have notLadder : h.testMode ≠ .ladder := by rcases mode with mode | mode <;> rw [mode] <;> decide
  dsimp only at out
  by_cases dry : h.keepWet = 0
  · rw [if_pos dry] at out
    rw [hp.takeFrame_of_assemble h r t codes out]
    exact ⟨_, rfl, fun _ => rfl, fun _ => rfl, fun _ => ⟨fun _ => rfl, fun wet => absurd dry wet⟩, fun is => absurd is notFlood,
      fun is => absurd is notLadder, fun is => absurd is notPrbs⟩
  · rw [if_neg dry] at out
    have spec := keepWet_spec h.keepWet some_ r
      (if h.testMode = .normal then codes.getD (List.replicate h.nozzlesPerRow 0) else List.replicate h.nozzlesPerRow 0) 0 hp.ages rise
    simp only [Nat.zero_add] at spec
    rw [hp.takeFrame_of_assemble h r t codes out]
    exact ⟨_, rfl, fun _ => rfl, fun none_ => none_.elim (absurd · dry) fun none_ => mode.elim (absurd · none_.1) (absurd · none_.2),
      fun _ => ⟨fun is => absurd is dry, fun _ => spec⟩, fun is => absurd is notFlood, fun is => absurd is notLadder,
      fun is => absurd is notPrbs⟩

theorem HeadPort.took_takeFrame (rise : rising hp.ages = true) (some_ : 1 ≤ h.rowCount) :
    hp.took h r t codes (hp.takeFrame h r t codes) := by
  cases mode : h.testMode with
  | normal => exact hp.took_printed h r t codes rise some_ (.inl mode)
  | mute => exact hp.took_printed h r t codes rise some_ (.inr mode)
  | flood =>
    rw [hp.takeFrame_of_assemble h r t codes (hp.assemble_flood h r t codes mode)]
    exact ⟨_, rfl, fun _ => rfl, fun _ => rfl, by simp [mode], fun _ => rfl, by simp [mode], by simp [mode]⟩
  | ladder =>
    rw [hp.takeFrame_of_assemble h r t codes (hp.assemble_ladder h r t codes mode)]
    exact ⟨_, rfl, fun _ => rfl, fun _ => rfl, by simp [mode], by simp [mode], fun _ => rfl, by simp [mode]⟩
  | prbs =>
    rw [hp.takeFrame_of_assemble h r t codes (hp.assemble_prbs h r t codes mode), prbsCodes_eq]
    exact ⟨_, rfl, fun is => absurd mode is, fun _ => rfl, by simp [mode], by simp [mode], by simp [mode], fun _ => ⟨rfl, rfl⟩⟩

end Assembling
/-! ### Frames sent (R144) -/

section Sending
variable (d : Device) (p : PortIx) (f : Frame)

/-- A frame's last symbol at a port. -/
theorem Device.frameSent_of (current : (d.port p).progress = some f) (can : (d.port p).frameCanEnd = true) :
    d.frameSent p = ((d.modPort p (fun hp => { hp with progress := none })).frameDone p f).boundary p := by
  rw [Device.frameSent, current]
  exact if_pos can

theorem Device.frameDone_stale (stale : f.stale = true) :
    d.frameDone p f = if d.rowEnabled p f.row then d.raiseToken p (.discard f.row) else d := if_pos stale

theorem Device.frameDone_idle (fresh : f.stale = false) {y : Pos} (latch : (d.pipe p f.row).latch = .loaded y ∨ (d.pipe p f.row).latch = .clear) :
    d.frameDone p f = d := by
  unfold Device.frameDone
  rw [if_neg (by rw [fresh]; exact Bool.false_ne_true)]
  rcases latch with latch | latch <;> rw [latch]

theorem Device.frameDone_sending (fresh : f.stale = false) {y : Pos} (latch : (d.pipe p f.row).latch = .sending y) :
    d.frameDone p f = if notAhead y (d.standing p f.row) then
      ((d.raiseToken p (.discard f.row)).modPipe p f.row (fun q => { q with latch := .clear })).handOver p f.row
      else d.modPipe p f.row (fun q => { q with latch := .loaded y }) := by
  unfold Device.frameDone
  rw [if_neg (by rw [fresh]; exact Bool.false_ne_true), latch]
  by_cases passed : notAhead y (d.standing p f.row)
  · rw [if_pos passed]
    exact if_neg fun early => (ahead_iff _ _).1 early passed
  · rw [if_neg passed]
    exact if_pos ((ahead_iff _ _).2 passed)

theorem Device.raiseToken_ready (t : Token) (ready : (d.port p).state = .ready) :
    d.raiseToken p t = d.modPort p (fun hp => { hp with tokens := hp.tokens ++ [t] }) := if_pos ready

/-- A device with a port given. -/
def Device.withPort (d : Device) (p : PortIx) (hp : HeadPort) : Device := { d with hp := vset d.hp p hp }

theorem Device.modPort_eq (g : HeadPort → HeadPort) : d.modPort p g = d.withPort p (g (d.port p)) := rfl

theorem Device.withPort_port (hp : HeadPort) : (d.withPort p hp).port p = hp := vget_vset_same _ _ _

theorem Device.withPort_modPort (hp : HeadPort) (g : HeadPort → HeadPort) : (d.withPort p hp).modPort p g = d.withPort p (g hp) := by
  rw [Device.modPort_eq, Device.withPort_port, Device.withPort, Device.withPort, Device.withPort]
  dsimp only
  rw [vset_vset]

end Sending

/-- Settles O48: the parts of a hand-over, and a frame's end by the row's latch. -/
theorem frameSentReports : Obligations.FrameSentReports := by
  refine ⟨fun hp h r t codes rise some_ => hp.took_takeFrame h r t codes rise some_, fun s p f working ready current can => ?_⟩
  intro hp discarding q
  let e := s.dev.withPort p hp
  have port : e.port p = hp := s.dev.withPort_port p _
  have effect : s.dev.effect (.frameSent p) = (e.frameDone p f).boundary p := s.dev.frameSent_of p f current can
  have discards : e.raiseToken p (.discard f.row) = s.dev.withPort p discarding := by
    rw [e.raiseToken_ready p _ (by rw [port]; exact ready)]
    exact s.dev.withPort_modPort p _ _
  have chosen : ∀ k : HeadPort, (s.dev.withPort p k).boundary p = s.dev.withPort p k.choose := fun k => s.dev.withPort_modPort p k _
  have runs : ∀ b : Device, b.settled → (e.frameDone p f).boundary p = b → exec (.frameSent p) s = .next { s with dev := b } :=
    fun b settled is => exec_of_settled (.frameSent p) rfl rfl working.1 (effect.trans is) settled
  let b := (s.dev.withPort p discarding).modPipe p f.row (fun q => { q with latch := .clear })
  have handed : ((e.raiseToken p (.discard f.row)).modPipe p f.row (fun q => { q with latch := .clear })).handOver p f.row =
      b.handOver p f.row := by rw [discards]
  have cleared : b.pipe p f.row = { q with latch := .clear } := (s.dev.withPort p discarding).pipe_modPipe_same _ _ _
  refine ⟨fun y fresh latch early => ?_, fun stale => ?_, fun y fresh latch passed bare => ?_,
    fun y x codes fresh latch passed staged prints => ?_, fun y fresh latch => ?_⟩
  · refine runs _ (Device.settled_congr working.2 rfl rfl rfl rfl) ?_
    rw [e.frameDone_sending p f fresh latch]
    refine (congrArg (Device.boundary · p) (if_neg early)).trans ?_
    exact congrArg (fun b : Device => b.modPipe p f.row (fun q => { q with latch := .loaded y })) (chosen hp)
  · refine runs _ (Device.settled_congr working.2 rfl rfl rfl rfl) ?_
    rw [e.frameDone_stale p f stale]
    change (if s.dev.rowEnabled p f.row then e.raiseToken p (.discard f.row) else e).boundary p = _
    by_cases enabled : s.dev.rowEnabled p f.row = true
    · rw [if_pos enabled, if_pos enabled, discards, chosen]
      rfl
    · rw [if_neg enabled, if_neg enabled, chosen]
      rfl
  · have hand : (b.pipe p f.row).toHand = none := by
      rw [cleared, Pipeline.toHand]
      cases stage : q.stage with
      | staged x codes => exact absurd stage (bare x codes)
      | empty => rfl
      | fetching x pl => rfl
      | waiting x pl => rfl
    refine runs _ (Device.settled_congr working.2 rfl rfl rfl rfl) ?_
    rw [e.frameDone_sending p f fresh latch]
    refine (congrArg (Device.boundary · p) ((if_pos passed).trans handed)).trans ?_
    rw [b.handOver_of_none _ _ hand]
    exact congrArg (fun b : Device => b.modPipe p f.row (fun q => { q with latch := .clear })) (chosen discarding)
  · have hand : (b.pipe p f.row).toHand = some (x, codes) := by rw [cleared, Pipeline.toHand, staged]
    have done : e.frameDone p f = b.handOver p f.row := (e.frameDone_sending p f fresh latch).trans ((if_pos passed).trans handed)
    have printing : b.printing p f.row = true :=
      by
      refine (Device.printing_congr (a := s.dev) (b := b) rfl ?_ f.row).trans prints
      exact (congrArg HeadPort.state (s.dev.withPort_port p discarding)).trans rfl
    have latched := b.handOver_pipe_of_some p f.row hand printing
    have took := b.handOver_port p f.row printing
    rw [hand] at took
    have raises : s.dev.Raises (b.handOver p f.row) :=
      ((s.dev.raises_modPort p fun _ => discarding).trans (Device.raises_modPipe _ p f.row _)).trans (b.raises_handOver p f.row)
    rw [done] at effect
    generalize b.handOver p f.row = c at effect latched took raises
    have raises' : s.dev.Raises (c.boundary p) := raises.trans (c.raises_modPort p _)
    have chose : (c.boundary p).port p = (c.port p).choose := c.port_modPort_same p _
    have kept : (c.boundary p).pipe p f.row = c.pipe p f.row := rfl
    generalize c.boundary p = g at effect raises' chose kept
    obtain ⟨fetchQ, service, settles, _⟩ := Device.settle_raised working.2 raises'
    have result := exec_eq_run (.frameSent p) s rfl rfl
    rw [State.run_released _ _ working.1, effect, settles] at result
    refine ⟨_, result, raises'.but_ls _, ?_, ?_⟩
    · change (g.pipe p f.row).latch = _
      rw [kept, latched]
      dsimp only
      split
      · exact Pipeline.filled_latch _ _ _ _ _
      · rfl
    · change g.port p = _
      rw [chose, took]
      exact congrArg (fun k : HeadPort => (k.takeFrame (s.dev.head p) f.row x codes).choose) (s.dev.withPort_port p discarding)
  · refine runs _ (Device.settled_congr working.2 rfl rfl rfl rfl) ?_
    rw [e.frameDone_idle p f fresh latch, chosen]
    rfl

end Sys2Proof.Machine
end

section
/-! PROOFS. Pickups and landing writes (R57 to R65, R75, R76, R87, R89). -/

namespace Sys2Proof.Machine

/-! ### Landing writes raised (R75) -/

/-- Settles O37: a free memory port serves the write at once, a busy one has it wait. -/
theorem landingWriteRaises : Obligations.LandingWriteRaises := by
  intro s g p ps ring i working landing toRaise has found h w
  have addr : s.dev.landingAddr p g.copy.page = w.addr := by
    rw [Device.landingAddr, has, Option.bind_some, Ring.find_eq]
    change ((ring.slots.findIdx? fun k => k.tag == g.copy.hdr.tag && k.line == g.copy.hdr.line.toNat).map ring.slotAddr).getD 0 = _
    rw [found]
    rfl
  let e : Device := { s.dev with
    le := some { g with toRaise := ps, lost := g.lost ++ [(p, g.lostDrops p)] }
    ls := { s.dev.ls with writeQ := s.dev.ls.writeQ ++ [w] } }
  have effect : s.dev.effect .landingWriteRaised = e := by
    change s.dev.raiseWrite = e
    simp only [Device.raiseWrite, landing, toRaise, addr]
    rfl
  have result := exec_eq_run .landingWriteRaised s rfl rfl
  rw [State.run_released _ _ working.1, effect] at result
  rw [result]
  refine congrArg Host.Outcome.next (State.with_dev ?_)
  have raised : s.dev.ls.fetchRaised = [] := working.2.1
  by_cases free : s.dev.ls.service = none
  · obtain ⟨fetches, writes, window⟩ := working.2.2.1 free
    rw [if_pos free, Device.settle_freed e raised free window]
    refine (Device.upArbitrate_kept ({ e with ls := e.ls.freed } : Device) working.2.2.2).trans ?_
    simp [e, w, h, LineStore.freed, LineStore.next, fetches, writes]
  · rw [if_neg free]
    exact e.settle_of_settled ⟨raised, fun is => absurd is free, working.2.2.2⟩

/-! ### Pickups (R57 to R65) -/

/-- The counter of a refusal. -/
def Acceptance.counter : Acceptance → Option HeadCounter
  | .outOfPage => some .outOfPage
  | .stale => some .stale
  | .late => some .late
  | .overrun => some .overrun
  | .accepted => none

/-- The bits that a refusal sets in the head event word. -/
def Acceptance.bits : Acceptance → Word
  | .late => 1
  | .overrun => 2
  | .outOfPage | .stale | .accepted => 0

theorem Acceptance.bits_eq (a : Acceptance) : a.bits = (if a = .late then 1 else 0) ||| (if a = .overrun then 2 else 0) := by
  cases a <;> rfl

theorem Acceptance.counter_iff (a : Acceptance) (k : HeadCounter) : a.counter = some k ↔
    (k = .outOfPage ∧ a = .outOfPage) ∨ (k = .stale ∧ a = .stale) ∨ (k = .late ∧ a = .late) ∨ (k = .overrun ∧ a = .overrun) := by
  cases a <;> simp [Acceptance.counter, eq_comm]

/-- What the outcomes `A` of the heads picked by `P` make of a device. -/
structure Device.Judged (pl : PageLine) (A : PortIx → Acceptance) (P : PortIx → Prop) [DecidablePred P] (a b : Device) : Prop where
  same : b = { a with
    ou := { a.ou with headEvents := b.ou.headEvents, headCounts := b.ou.headCounts }
    ls := { a.ls with rings := b.ls.rings } }
  ring : ∀ p, b.ring p = if P p ∧ A p = .accepted then (a.ring p).map (·.append pl.tag pl.line) else a.ring p
  event : ∀ p, vget b.ou.headEvents p = vget a.ou.headEvents p ||| (if P p then (A p).bits else 0)
  count : headCounted a b (fun p k => if P p ∧ (A p).counter = some k then 1 else 0)

theorem Device.judged_refl (pl : PageLine) (A : PortIx → Acceptance) (d : Device) : d.Judged pl A (fun _ => False) d where
  same := rfl
  ring p := by simp
  event p := by simp
  count := headCounted_congr (headCounted_same d d rfl) fun p c => by simp

theorem Device.judged_one (pl : PageLine) (A : PortIx → Acceptance) (q : PortIx) (d : Device) :
    d.Judged pl A (· = q) (d.applyAcceptance pl q (A q)) := by
  have counts : ∀ {e : Device} {k : HeadCounter}, (A q).counter = some k → headCounted d e (fun p c => if p = q ∧ c = k then 1 else 0) →
      headCounted d e (fun p c => if p = q ∧ (A p).counter = some c then 1 else 0) := fun is counted =>
    headCounted_congr counted fun p c => by
      by_cases here : p = q
      · exact if_congr (by rw [here, is, Option.some.injEq, eq_comm (a := c)]) rfl rfl
      · rw [if_neg (here ·.1), if_neg (here ·.1)]
  have refused : A q ≠ .accepted → ∀ p, d.ring p = if p = q ∧ A p = .accepted then (d.ring p).map (·.append pl.tag pl.line) else d.ring p :=
    fun not p => (if_neg fun ⟨here, is⟩ => not (here ▸ is)).symm
  have quiet : (A q).bits = 0 → ∀ p, vget d.ou.headEvents p = vget d.ou.headEvents p ||| (if p = q then (A p).bits else 0) := fun is p => by
    split
    · next here => rw [here, is]; exact BitVec.or_zero.symm
    · exact BitVec.or_zero.symm
  have event : ∀ x, (A q).bits = x →
      ∀ p, vget (vmod d.ou.headEvents q (· ||| x)) p = vget d.ou.headEvents p ||| (if p = q then (A p).bits else 0) := fun x is p => by
    rw [vget_vmod]
    split
    · next here => rw [here, is]
    · exact BitVec.or_zero.symm
  cases out : A q with
  | outOfPage =>
    exact ⟨rfl, refused (by simp [out]), quiet (by rw [out]; rfl), counts (k := .outOfPage) (by rw [out]; rfl) (headCounted_countHead d q _ 1)⟩
  | stale => exact ⟨rfl, refused (by simp [out]), quiet (by rw [out]; rfl), counts (k := .stale) (by rw [out]; rfl) (headCounted_countHead d q _ 1)⟩
  | late =>
    exact ⟨rfl, refused (by simp [out]), event 1 (by rw [out]; rfl), counts (k := .late) (by rw [out]; rfl)
      (headCounted_of_counts (headCounted_countHead d q _ 1) rfl)⟩
  | overrun =>
    exact ⟨rfl, refused (by simp [out]), event 2 (by rw [out]; rfl), counts (k := .overrun) (by rw [out]; rfl)
      (headCounted_of_counts (headCounted_countHead d q _ 1) rfl)⟩
  | accepted =>
    refine ⟨rfl, fun p => ?_, quiet (by rw [out]; rfl), headCounted_congr (headCounted_same d _ rfl) fun p c => ?_⟩
    · refine (vget_vmod _ _ _ _).trans ?_
      by_cases here : p = q
      · rw [if_pos here, if_pos ⟨here, here ▸ out⟩]
        rfl
      · rw [if_neg here, if_neg (here ·.1)]
        rfl
    · refine (if_neg fun is => ?_).symm
      rw [is.1, out] at is
      exact absurd is.2 (by simp [Acceptance.counter])

theorem Device.Judged.trans {pl : PageLine} {A : PortIx → Acceptance} {P Q R : PortIx → Prop} [DecidablePred P] [DecidablePred Q]
    [DecidablePred R] {a b c : Device} (h : a.Judged pl A P b) (k : b.Judged pl A Q c) (apart : ∀ p, P p → ¬ Q p)
    (both : ∀ p, R p ↔ P p ∨ Q p) : a.Judged pl A R c where
  same := by rw [k.same, h.same]
  ring p := by
    rw [k.ring, h.ring]
    have := apart p
    by_cases first : P p <;> by_cases second : Q p <;> simp_all
  event p := by
    rw [k.event, h.event]
    have := apart p
    by_cases first : P p <;> by_cases second : Q p <;> simp_all
  count := headCounted_congr (headCounted_trans h.count k.count) fun p x => by
    have := apart p
    by_cases first : P p <;> by_cases second : Q p <;> simp_all

theorem Device.judged_foldl (pl : PageLine) (A : PortIx → Acceptance) (l : List PortIx) (nodup : l.Nodup) (d : Device) :
    d.Judged pl A (· ∈ l) (l.foldl (fun e p => e.applyAcceptance pl p (A p)) d) := by
  induction l generalizing d with
  | nil => simpa using d.judged_refl pl A
  | cons q l ih =>
    rw [List.nodup_cons] at nodup
    exact (d.judged_one pl A q).trans (ih nodup.2 _) (fun p is mem => nodup.1 (is ▸ mem)) fun p => List.mem_cons

/-- Settles O36: no record of the tag, or the outcomes of the taking heads. -/
theorem pickupJudges : Obligations.PickupJudges := by
  intro s c rest working free complete running
  have active : s.dev.jobActive = true := bne_iff_ne.2 running
  let e : Device := { s.dev with ib := { s.dev.ib with complete := rest } }
  have picks : s.dev.effect .pickup = match s.dev.pc.queue.find? (fun q => q.tag == c.hdr.tag) with
      | none => e.count .unannounced 1
      | some q => e.pickupAnnounced c q := by
    change s.dev.pickup = _
    unfold Device.pickup
    split
    · next _ _ c' rest' _ is =>
      obtain ⟨rfl, rfl⟩ := List.cons.inj (complete.symm.trans is)
      exact if_pos active
    · next other => exact absurd complete (other c rest free)
  refine ⟨fun unknown => ?_, fun q found => ?_⟩
  · have none_ : s.dev.pc.queue.find? (fun q => q.tag == c.hdr.tag) = none :=
      List.find?_eq_none.2 fun q mem is => unknown q mem (eq_of_beq is)
    rw [none_] at picks
    exact ⟨_, exec_of_settled .pickup rfl rfl working.1 picks (Device.settled_congr working.2 rfl rfl rfl rfl), rfl,
      counted_of_counts (counted_count e .unannounced 1) rfl⟩
  · rw [found] at picks
    have judged := e.judged_foldl c.page (fun p => e.accept q c.page p) (allPorts.filter (fun p => (e.head p).takes c.hdr))
      (allPorts_nodup.filter _)
    change s.dev.effect .pickup = e.pickupAnnounced c q at picks
    rw [Device.pickupAnnounced] at picks
    generalize (allPorts.filter (fun p => (e.head p).takes c.hdr)).foldl _ e = b at picks judged
    have settled : b.settled := by
      rw [judged.same]
      exact working.2
    generalize accepted : (allPorts.filter (fun p => (e.head p).takes c.hdr)).filter (fun p => e.accept q c.page p == .accepted) = acc
      at picks
    refine ⟨_, exec_of_settled .pickup rfl rfl working.1 picks (Device.settled_congr settled rfl rfl rfl rfl), ?_⟩
    intro line first taking stale late full outcome accepts accepting
    have takes : ∀ p, (e.head p).takes c.hdr = taking p := fun p => by
      simp only [HeadDescr.takes, HeadDescr.hasPlane, HeadDescr.inSpan, pixelCount, ← Bool.and_assoc, taking]
      rfl
    have outcomes : ∀ p, e.accept q c.page p = outcome p := fun p => by
      have lates : e.isLate p q line = late p := by
        simp only [Device.isLate, late, show ∀ x y, atOrBehind x y = decide (notAhead x y) from
          fun x y => Bool.eq_iff_iff.2 ((atOrBehind_iff x y).trans decide_eq_true_iff.symm)]
        rfl
      exact congrArg (fun l : Bool => if q.length ≤ line then Acceptance.outOfPage else if stale p then .stale else if l then .late
        else if full p then .overrun else .accepted) lates
    have all : acc = accepting := by
      rw [← accepted, List.filter_filter]
      exact List.filter_congr fun p _ => by rw [takes, outcomes, Bool.and_comm]
    subst all
    have mem : ∀ p, p ∈ allPorts.filter (fun p => (e.head p).takes c.hdr) ↔ taking p = true := fun p => by
      rw [List.mem_filter, takes]
      exact and_iff_right (mem_allPorts p)
    refine ⟨?_, fun p => ?_, fun p => ?_, ?_⟩
    · exact (congrArg (fun b : Device => ({ s with dev := { b with le := _ } } : State)) judged.same).trans rfl
    · refine (judged.ring p).trans ?_
      refine if_congr ?_ rfl rfl
      rw [mem, outcomes]
      simp only [accepts, Bool.and_eq_true, beq_iff_eq]
    · refine (judged.event p).trans ?_
      rw [outcomes, Acceptance.bits_eq]
      change vget s.dev.ou.headEvents p ||| _ = _
      rw [BitVec.or_assoc]
      refine congrArg (vget s.dev.ou.headEvents p ||| ·) ?_
      by_cases takes : taking p = true
      · simp only [(mem p).2 takes, takes, if_true, true_and]
      · simp only [mem, takes, Bool.false_eq_true, if_false, false_and]
        rfl
    · refine headCounted_congr (headCounted_of_counts judged.count rfl) fun p k => ?_
      exact if_congr (by rw [mem, outcomes, Acceptance.counter_iff]) rfl rfl

end Sys2Proof.Machine
end

section
/-! PROOFS. Landing writes that complete (R76, R89, R98, R140). -/

namespace Sys2Proof.Machine

/-! ### Rows told of a slot (R140) -/

/-- A row told that the slot of a page line became LANDED. -/
def Pipeline.told (printing : Bool) (ring : Option Ring) (pc : PageControl) (done : PageLine) (q : Pipeline) : Pipeline :=
  match printing, q.stage, ring with
  | true, .waiting t pl, some g =>
    if pl = done then (if (g.find pl).isSome then { q with stage := .fetching t pl } else q)
    else if (g.find pl).isNone && pc.before pl done then { q with stage := .empty, missing := true }
    else q
  | _, _, _ => q

theorem Pipeline.told_waiting {q : Pipeline} {t : Pos} {pl : PageLine} (stage : q.stage = .waiting t pl) (g : Ring) (pc : PageControl)
    (done : PageLine) : q.told true (some g) pc done =
      if pl = done then (if (g.find pl).isSome then { q with stage := .fetching t pl } else q)
      else if (g.find pl).isNone && pc.before pl done then { q with stage := .empty, missing := true }
      else q := by
  unfold Pipeline.told
  simp only [stage]

theorem Pipeline.told_idle {q : Pipeline} (idle : ∀ t pl, q.stage ≠ .waiting t pl) (printing : Bool) (ring : Option Ring) (pc : PageControl)
    (done : PageLine) : q.told printing ring pc done = q := by
  unfold Pipeline.told
  split
  · next t pl _ stage => exact absurd stage (idle t pl)
  · rfl

/-- `b` follows from `a` by changes of the rings `R` picks, of the pipelines `P` picks, of head counters, and by fetches raised. -/
structure Device.Landed (R : PortIx → Prop) (P : PortIx → RowIx → Prop) (a b : Device) : Prop where
  same : b = { a with
    ou := { a.ou with headCounts := b.ou.headCounts }
    ls := { a.ls with rings := b.ls.rings, fetchRaised := b.ls.fetchRaised }
    rf := b.rf }
  ring : ∀ p, ¬ R p → b.ring p = a.ring p
  pipe : ∀ p r, ¬ P p r → b.pipe p r = a.pipe p r

namespace Device.Landed
variable {R S : PortIx → Prop} {P Q : PortIx → RowIx → Prop} {a b c : Device}

theorem refl (a : Device) : a.Landed R P a := ⟨rfl, fun _ _ => rfl, fun _ _ _ => rfl⟩

theorem trans (h : a.Landed R P b) (k : b.Landed R P c) : a.Landed R P c :=
  ⟨by rw [k.same, h.same], fun p not => (k.ring p not).trans (h.ring p not), fun p r not => (k.pipe p r not).trans (h.pipe p r not)⟩

theorem mono (h : a.Landed R P b) (rings : ∀ p, R p → S p) (pipes : ∀ p r, P p r → Q p r) : a.Landed S Q b :=
  ⟨h.same, fun p not => h.ring p fun is => not (rings p is), fun p r not => h.pipe p r fun is => not (pipes p r is)⟩

theorem foldl {β : Type} (f : Device → β → Device) (l : List β) (hf : ∀ d, ∀ x ∈ l, Device.Landed R P d (f d x)) (d : Device) :
    d.Landed R P (l.foldl f d) := by
  induction l generalizing d with
  | nil => exact refl d
  | cons x l ih => exact (hf d x List.mem_cons_self).trans (ih (fun d y mem => hf d y (List.mem_cons_of_mem x mem)) _)

theorem printing (h : a.Landed R P b) (p : PortIx) (r : RowIx) : b.printing p r = a.printing p r := by rw [h.same]; rfl
theorem pc (h : a.Landed R P b) : b.pc = a.pc := by rw [h.same]

end Device.Landed

section Told
variable (d : Device) (p : PortIx) (r : RowIx) (done : PageLine)

theorem Device.rowSlotLanded_idle (idle : ∀ t pl, (d.pipe p r).stage ≠ .waiting t pl) : d.rowSlotLanded p r done = d := by
  unfold Device.rowSlotLanded
  split
  · next t pl _ _ stage _ => exact absurd stage (idle t pl)
  · rfl

theorem Device.rowSlotLanded_pipe :
    (d.rowSlotLanded p r done).pipe p r = (d.pipe p r).told (d.printing p r) (d.ring p) d.pc done := by
  by_cases waits : ∃ t pl, (d.pipe p r).stage = .waiting t pl
  · obtain ⟨t, pl, stage⟩ := waits
    cases prints : d.printing p r with
    | false => simp only [Device.rowSlotLanded, Pipeline.told, prints]
    | true =>
      cases ring : d.ring p with
      | none => simp only [Device.rowSlotLanded, Pipeline.told, prints, stage, ring]
      | some g =>
        rw [Pipeline.told_waiting stage]
        simp only [Device.rowSlotLanded, prints, stage, ring]
        split
        · cases g.find pl with
          | none => rfl
          | some i => exact d.pipe_modPipe_same p r _
        · split
          · exact d.pipe_modPipe_same p r _
          · rfl
  · have idle : ∀ t pl, (d.pipe p r).stage ≠ .waiting t pl := fun t pl stage => waits ⟨t, pl, stage⟩
    rw [Pipeline.told_idle idle, Device.rowSlotLanded_idle d p r done idle]

theorem Device.landed_modPipe (f : Pipeline → Pipeline) : d.Landed (fun _ => False) (fun p' r' => p' = p ∧ r' = r) (d.modPipe p r f) :=
  ⟨rfl, fun _ _ => rfl, fun _ _ not => (rget_rmod _ _ _ _ _ _).trans (if_neg not)⟩

theorem Device.landed_raiseFetch {P : PortIx → RowIx → Prop} (pl : PageLine) (g : Ring) (i : Nat) :
    d.Landed (fun _ => False) P (d.raiseFetch p r pl g i) := ⟨rfl, fun _ _ => rfl, fun _ _ _ => rfl⟩

theorem Device.landed_rowSlotLanded : d.Landed (fun _ => False) (fun p' r' => p' = p ∧ r' = r) (d.rowSlotLanded p r done) := by
  unfold Device.rowSlotLanded
  split
  · split
    · split
      · exact (d.landed_modPipe p r _).trans (Device.landed_raiseFetch _ p r _ _ _)
      · exact .refl d
    · split
      · exact d.landed_modPipe p r _
      · exact .refl d
  · exact .refl d

theorem Device.landed_slotLanded : d.Landed (fun _ => False) (fun p' _ => p' = p) (d.slotLanded p done) :=
  .foldl _ _ (fun e r _ => (e.landed_rowSlotLanded p r done).mono (fun _ => id) fun _ _ => And.left) d

theorem Device.raises_rowSlotLanded : d.Raises (d.rowSlotLanded p r done) := by
  unfold Device.rowSlotLanded
  split
  · split
    · split
      · exact (d.raises_modPipe p r _).trans (Device.raises_raiseFetch _ p r _ _ _)
      · exact .refl d
    · split
      · exact d.raises_modPipe p r _
      · exact .refl d
  · exact .refl d

theorem Device.raises_slotLanded : d.Raises (d.slotLanded p done) :=
  foldl_keeps (Q := d.Raises) _ _ (fun e r raises => raises.trans (e.raises_rowSlotLanded p r done)) d (.refl d)

theorem Device.slotLanded_pipe :
    (d.slotLanded p done).pipe p r = (d.pipe p r).told (d.printing p r) (d.ring p) d.pc done := by
  obtain ⟨e, before, after⟩ := foldl_split (S := Device.Landed (fun _ => False) (fun p' r' => p' = p ∧ r' ≠ r)) .refl .trans
    (fun e r => e.rowSlotLanded p r done) r
    (fun e r' ne => (e.landed_rowSlotLanded p r' done).mono (fun _ => id) fun p' r'' is => ⟨is.1, is.2 ▸ ne.symm⟩)
    allRows allRows_nodup (mem_allRows r) d
  rw [Device.slotLanded, after.pipe p r (by simp), e.rowSlotLanded_pipe, before.pipe p r (by simp), before.printing, before.pc,
    before.ring p id]

end Told

/-! ### Landings that complete (R76) -/

/-- The ring of an accepting head after its slot landed. -/
def Ring.landed (g : Ring) (pl : PageLine) : Ring := (g.land pl).release

theorem Ring.find_isSome_iff (g : Ring) (pl : PageLine) :
    (g.find pl).isSome = true ↔ ∃ k ∈ g.slots, k.tag = pl.tag ∧ k.line = pl.line := by
  rw [Ring.find_eq, List.findIdx?_isSome, List.any_eq_true]
  simp only [Slot.isFor, Bool.and_eq_true, beq_iff_eq]

theorem Ring.landed_eq (g : Ring) (pl : PageLine) :
    let slots := g.slots.map (fun k => if k.tag = pl.tag ∧ k.line = pl.line then { k with state := .landed } else k)
    let left := slots.dropWhile (fun k => k.state == .landed && allRows.all (fun r => vget k.done r == decide (r.val < g.rowCount)))
    g.landed pl = { g with slots := left, oldest := (g.oldest + (slots.length - left.length)) % g.capacity } := by
  have same : ∀ k : Slot, (if k.page = pl then { k with state := SlotState.landed } else k) =
      if k.tag = pl.tag ∧ k.line = pl.line then { k with state := .landed } else k := fun k => by
    refine if_congr ?_ rfl rfl
    cases pl
    simp [Slot.page]
  simp only [Ring.landed, Ring.land, Ring.release, same]
  rfl

section Heads
variable (g : Landing) (d : Device) (p : PortIx)

theorem Device.landed_modRing (f : Ring → Ring) : d.Landed (· = p) (fun _ _ => False) (d.modRing p f) :=
  ⟨rfl, fun _ not => (vget_vmod _ _ _ _).trans (if_neg not), fun _ _ _ => rfl⟩

theorem Device.landed_countHead {R : PortIx → Prop} {P : PortIx → RowIx → Prop} (c : HeadCounter) (n : Nat) :
    d.Landed R P (d.countHead p c n) := ⟨rfl, fun _ _ => rfl, fun _ _ _ => rfl⟩

/-- A head whose slot landed, before its rows are told. -/
def Device.headLanded (g : Landing) (d : Device) (p : PortIx) : Device :=
  ((d.modRing p (·.landed g.copy.page)).countHead p .landed 1).countHead p .lostDrops (g.lostOf p)

theorem Device.landHead_eq : Device.landHead g d p = (Device.headLanded g d p).slotLanded p g.copy.page := rfl

theorem Device.headLanded_ring : (Device.headLanded g d p).ring p = (d.ring p).map (·.landed g.copy.page) :=
  (vget_vmod _ _ _ _).trans (if_pos rfl)

theorem Device.landed_landHead : d.Landed (· = p) (fun p' _ => p' = p) (Device.landHead g d p) := by
  rw [Device.landHead_eq]
  refine .trans ?_ ((Device.landed_slotLanded _ p g.copy.page).mono (fun _ => False.elim) fun _ _ => id)
  exact (((d.landed_modRing p _).mono (fun _ => id) fun _ _ => False.elim).trans (Device.landed_countHead _ p _ _)).trans
    (Device.landed_countHead _ p _ _)

theorem Device.landHead_ring : (Device.landHead g d p).ring p = (d.ring p).map (·.landed g.copy.page) := by
  rw [Device.landHead_eq, (Device.landed_slotLanded _ p g.copy.page).ring p id, Device.headLanded_ring]

theorem Device.landHead_pipe (r : RowIx) : (Device.landHead g d p).pipe p r =
    (d.pipe p r).told (d.printing p r) ((d.ring p).map (·.landed g.copy.page)) d.pc g.copy.page := by
  rw [Device.landHead_eq, Device.slotLanded_pipe, Device.headLanded_ring]
  rfl

theorem Device.landHead_counted : headCounted d (Device.landHead g d p)
    (fun q c => if q = p then (if c = .landed then 1 else if c = .lostDrops then g.lostOf q else 0) else 0) := by
  let e := d.modRing p (·.landed g.copy.page)
  have twice := headCounted_trans (headCounted_countHead e p .landed 1) (headCounted_countHead _ p .lostDrops (g.lostOf p))
  have told : (Device.landHead g d p).ou = (Device.headLanded g d p).ou := (Device.raises_slotLanded _ p g.copy.page).ou
  refine headCounted_congr (headCounted_of_counts (a := d) twice (congrArg (·.headCounts) told)) fun q c => ?_
  by_cases here : q = p
  · subst here
    by_cases landed : c = .landed
    · simp [landed]
    · simp [landed]
  · simp [here]

end Heads

/-- Counts that each element of a list adds to its own head. -/
theorem headCounted_foldl (f : Device → PortIx → Device) (n : PortIx → HeadCounter → Nat)
    (step : ∀ d p, headCounted d (f d p) (fun q c => if q = p then n q c else 0)) (l : List PortIx) (nodup : l.Nodup) (d : Device) :
    headCounted d (l.foldl f d) (fun q c => if q ∈ l then n q c else 0) := by
  induction l generalizing d with
  | nil => exact headCounted_congr (headCounted_same d d rfl) fun q c => by simp
  | cons p l ih =>
    rw [List.nodup_cons] at nodup
    refine headCounted_congr (headCounted_trans (step d p) (ih nodup.2 _)) fun q c => ?_
    by_cases here : q = p
    · subst here
      simp [nodup.1]
    · simp [here]

theorem Device.landWriteDone_mem (d : Device) (w : LandWrite) : (d.landWriteDone w).mem = writeBytes d.mem w.addr w.bytes := by
  have mems : ∀ e : Device, e.writeDone.mem = e.mem := fun e => by
    unfold Device.writeDone
    split
    · next g _ =>
      split
      · have landed : Device.Landed (fun _ => True) (fun _ _ => True) { e with le := none } _ :=
          .foldl (Device.landHead g) g.accepting (fun d p _ => (Device.landed_landHead g d p).mono (fun _ _ => trivial) fun _ _ _ => trivial) _
        rw [landed.same]
      · rfl
    · rfl
  rw [Device.landWriteDone]
  split
  · rw [mems]
  · rfl

/-- Settles O38: the bytes stored, and the heads told when the last write completes. -/
theorem landingWriteCompletes : Obligations.LandingWriteCompletes := by
  intro s w working served
  have command : exec .landingWriteComplete s =
      if installed s.dev.ou.memory w.addr w.bytes.length then s.run (fun d => d.landWriteDone w) else .fault (.absentMemory w.addr) := by
    change execLandingWriteComplete s = _
    rw [execLandingWriteComplete, served]
  refine ⟨fun absent => ?_, fun present => ?_⟩
  · rw [command, if_neg]
    rw [installed, decide_eq_true_iff]
    exact Nat.not_le.2 absent
  have result : exec .landingWriteComplete s = .next { s with dev := (s.dev.landWriteDone w).settle } := by
    have yes : installed s.dev.ou.memory w.addr w.bytes.length = true := decide_eq_true present
    rw [command, if_pos yes, State.run_released _ _ working.1]
  have raised : s.dev.ls.fetchRaised = [] := working.2.1
  let e : Device := { s.dev with mem := writeBytes s.dev.mem w.addr w.bytes, ls := { s.dev.ls with service := none } }
  have frees : ∀ le, s.dev.ls.window = none → ({ e with le := le } : Device).settle = { e with le := le, ls := s.dev.ls.freed } :=
    fun le window => (Device.settle_completed (e := { e with le := le }) rfl window working.2.2.2).trans
      (by rw [Device.joinFetches_none { e with le := le } raised]; rfl)
  have mem : (s.dev.landWriteDone w).mem = writeBytes s.dev.mem w.addr w.bytes := Device.landWriteDone_mem s.dev w
  refine ⟨_, result, rfl, fun a out => ?_, fun i low => ?_, fun window => ⟨fun dead => ?_, fun g live landing more => ?_⟩,
    fun g live landing last nodup => ?_⟩
  · rw [Device.settle_mem, mem, readByte_writeBytes, dif_neg (by omega)]
  · rw [Device.settle_mem, mem, readByte_writeBytes, dif_pos (by omega)]
    simp
  · have done : s.dev.landWriteDone w = e := if_neg (by rw [dead]; exact Bool.false_ne_true)
    rw [done, frees s.dev.le window]
  · have done : s.dev.landWriteDone w = { e with le := some { g with incomplete := g.incomplete - 1 } } := by
      rw [Device.landWriteDone, if_pos live, Device.writeDone]
      simp only [landing]
      exact if_neg (by omega)
    rw [done, frees _ window]
  have lists : s.dev.landWriteDone w = g.accepting.foldl (Device.landHead g) { e with le := none } := by
    rw [Device.landWriteDone, if_pos live, Device.writeDone]
    simp only [landing]
    exact if_pos last
  rw [lists]
  let e' : Device := { e with le := none }
  have landed : e'.Landed (· ∈ g.accepting) (fun p _ => p ∈ g.accepting) (g.accepting.foldl (Device.landHead g) e') :=
    .foldl _ _ (fun d p is => (Device.landed_landHead g d p).mono (fun q here => here ▸ is) fun q _ here => here ▸ is) e'
  have counts := headCounted_foldl (Device.landHead g) _ (fun d p => Device.landHead_counted g d p) g.accepting nodup e'
  have split := fun p (is : p ∈ g.accepting) => foldl_split (S := Device.Landed (· ≠ p) (fun q _ => q ≠ p)) .refl .trans (Device.landHead g) p
    (fun d q ne => (Device.landed_landHead g d q).mono (fun q' here => here ▸ ne.symm) fun q' _ here => here ▸ ne.symm)
    g.accepting nodup is e'
  clear lists result mem
  change let D := g.accepting.foldl (Device.landHead g) e'; _
  generalize g.accepting.foldl (Device.landHead g) e' = D at landed counts split
  have ou : D.settle.ou.devEvents = s.dev.ou.devEvents ∧ D.settle.ou.headEvents = s.dev.ou.headEvents ∧
      D.settle.ou.devCounts = s.dev.ou.devCounts := by
    have kept := congrArg Device.ou (Device.settle_eq D)
    have same := congrArg Device.ou landed.same
    exact ⟨(congrArg (·.devEvents) kept).trans (congrArg (·.devEvents) same), (congrArg (·.headEvents) kept).trans
      (congrArg (·.headEvents) same), (congrArg (·.devCounts) kept).trans (congrArg (·.devCounts) same)⟩
  have ring : ∀ p, D.settle.ring p = D.ring p := fun p => congrArg (vget · p) D.settle_rings
  have pipe : ∀ p r, D.settle.pipe p r = D.pipe p r := fun p r => congrArg (rget · p r) D.settle_rf
  intro D' pl
  refine ⟨D.settle_le.trans (by rw [landed.same]), D.settle_tab.trans (by rw [landed.same]), D.settle_pc.trans (by rw [landed.same]),
    D.settle_pu.trans (by rw [landed.same]), D.settle_ib.trans (by rw [landed.same]), D.settle_hp.trans (by rw [landed.same]),
    D.settle_now.trans (by rw [landed.same]), ou.1, ou.2.1, ou.2.2, ?_, fun p out => ⟨(ring p).trans (landed.ring p out), fun r =>
      (pipe p r).trans (landed.pipe p r out)⟩, fun p is g' has => ?_⟩
  · refine headCounted_of_counts counts ?_
    exact congrArg (·.ou.headCounts) (Device.settle_eq D)
  · intro slots left
    have is_landed : g'.landed pl = { g' with slots := left, oldest := (g'.oldest + (slots.length - left.length)) % g'.capacity } :=
      g'.landed_eq pl
    obtain ⟨f, before, after⟩ := split p is
    have rings : f.ring p = some g' := (before.ring p (by simp)).trans has
    have pipes : ∀ r, D.settle.pipe p r = (s.dev.pipe p r).told (s.dev.printing p r) (some (g'.landed pl)) s.dev.pc pl := fun r => by
      rw [pipe, after.pipe p r (by simp), Device.landHead_pipe, rings, before.pipe p r (by simp), before.printing, before.pc]
      rfl
    refine ⟨?_, fun r x stage prints holds => ?_, fun r x other stage ne prints lacks => ?_, fun r idle => ?_⟩
    · rw [ring, after.ring p (by simp), Device.landHead_ring, rings, ← is_landed]
      rfl
    · rw [pipes, prints, Pipeline.told_waiting stage, if_pos rfl]
      exact if_pos ((Ring.find_isSome_iff _ _).2 (is_landed ▸ holds))
    · rw [pipes, prints, Pipeline.told_waiting stage, if_neg ne]
      have absent : ((g'.landed pl).find other).isNone = true := by
        rw [Option.isNone_iff_eq_none, ← Option.not_isSome_iff_eq_none, Ring.find_isSome_iff, is_landed]
        exact fun ⟨k, mem, tag, line⟩ => lacks k mem tag line
      rw [absent, Bool.true_and]
    · rw [pipes, Pipeline.told_idle idle]

end Sys2Proof.Machine
end

section
/-! PROOFS. The Row Firing Unit at a row line event (R132, R142, R145 to R148, R150, R151, R153). -/

namespace Sys2Proof.Machine

/-! ### Lost lines (R132) -/

/-- A word with one more count where `lost`. -/
def plusOne (w : Word) (lost : Bool) : Word := if lost then BitVec.ofNat 32 (min (w.toNat + 1) 4294967295) else w

theorem satAdd_zero (w : Word) : satAdd w 0 = w := by
  have := w.isLt
  rw [satAdd, Nat.add_zero, Nat.min_eq_left (by omega)]
  simp

/-- The records of a queue, those of a page line's tag with a lost line counted. -/
def queueLost (pl : Option PageLine) (starved skipped : Bool) (queue : List PageRec) : List PageRec :=
  queue.map (fun q => { q with
    starved := if pl.any (fun l => l.tag == q.tag) then plusOne q.starved starved else q.starved
    skipped := if pl.any (fun l => l.tag == q.tag) then plusOne q.skipped skipped else q.skipped })

theorem queueLost_of_not (pl : Option PageLine) (queue : List PageRec) : queueLost pl false false queue = queue := by
  simp [queueLost, plusOne]

theorem queueLost_kept (pl : Option PageLine) {f : LineFate} (starved : f ≠ .starved) (skipped : f ≠ .skipped) (queue : List PageRec) :
    queueLost pl (f = .starved) (f = .skipped) queue = queue := by
  simp only [starved, skipped, decide_false, queueLost_of_not]

/-- A page line under a position is of a record in the queue. -/
theorem lineUnder_mem {queue : List PageRec} {x : Pos} {pl : PageLine} (under : lineUnder queue x = some pl) :
    ∃ q ∈ queue, q.tag = pl.tag := by
  obtain ⟨q, mem, line⟩ := List.exists_of_findSome?_eq_some under
  refine ⟨q, mem, ?_⟩
  dsimp only at line
  split at line
  · cases line
  · split at line
    · cases line; rfl
    · cases line
  · split at line
    · cases line; rfl
    · cases line

/-- A lost line at a page line of the queue counts in its record alone. -/
theorem Device.reportLost_eq (d : Device) (x : Pos) (starved skipped : Bool) :
    d.reportLost (lineUnder d.pc.queue x) starved.toNat skipped.toNat =
      { d with pc := { d.pc with queue := queueLost (lineUnder d.pc.queue x) starved skipped d.pc.queue } } := by
  have add : ∀ (w : Word) (lost : Bool), satAdd w lost.toNat = plusOne w lost := fun w lost => by
    cases lost with
    | false => exact satAdd_zero w
    | true => rfl
  cases under : lineUnder d.pc.queue x with
  | none =>
    have same : queueLost none starved skipped d.pc.queue = d.pc.queue := by simp [queueLost]
    rw [same]
    rfl
  | some pl =>
    obtain ⟨q, mem, tag⟩ := lineUnder_mem under
    have found : d.pc.queue.any (fun q => q.tag == pl.tag) = true := List.any_eq_true.2 ⟨q, mem, beq_iff_eq.2 tag⟩
    have each : ∀ q : PageRec, (if q.tag = pl.tag then
        { q with starved := satAdd q.starved starved.toNat, skipped := satAdd q.skipped skipped.toNat } else q) = { q with
          starved := if (some pl).any (fun l => l.tag == q.tag) then plusOne q.starved starved else q.starved
          skipped := if (some pl).any (fun l => l.tag == q.tag) then plusOne q.skipped skipped else q.skipped } := fun q => by
      by_cases mine : q.tag = pl.tag
      · simp [mine, add]
      · simp [mine, Ne.symm mine]
    rw [Device.reportLost, PageControl.addLost, if_pos found, queueLost]
    simp only [each]

/-- Records with the same tags, states and lengths have the same lines under them. -/
theorem lineUnder_queueLost (pl : Option PageLine) (starved skipped : Bool) (queue : List PageRec) (x : Pos) :
    lineUnder (queueLost pl starved skipped queue) x = lineUnder queue x := by
  rw [lineUnder, queueLost, List.findSome?_map]
  rfl

theorem before_queueLost (pc : PageControl) (pl : Option PageLine) (starved skipped : Bool) (a b : PageLine) :
    ({ pc with queue := queueLost pl starved skipped pc.queue } : PageControl).before a b = pc.before a b := by
  have rank : ∀ tag, ({ pc with queue := queueLost pl starved skipped pc.queue } : PageControl).rank tag = pc.rank tag := fun tag => by
    simp only [PageControl.rank, queueLost, List.findIdx?_map]
    rfl
  simp only [PageControl.before, rank]

theorem stageFor_queueLost (h : HeadDescr) (pc : PageControl) (pl : Option PageLine) (starved skipped : Bool) (ring : Option Ring) (x : Pos) :
    stageFor h { pc with queue := queueLost pl starved skipped pc.queue } ring x = stageFor h pc ring x := by
  simp only [stageFor, lineUnder_queueLost, before_queueLost]

/-! ### The decision (R145 to R148) -/

/-- A port after its row met fate `f`. -/
def Device.portAfter (d : Device) (p : PortIx) (r : RowIx) (f : LineFate) : HeadPort :=
  match f with
  | .untouched | .skipped | .held => d.port p
  | .fired => { d.port p with tokens := (d.port p).tokens ++ [.fire r], tickleAt := d.tickleExpiry p }
  | .starved =>
    if (d.pipe p r).latch.isLoaded then { d.port p with tokens := (d.port p).tokens ++ [.discard r] } else d.port p

theorem Device.portDecided_eq (d : Device) (p : PortIx) (r : RowIx) (x : Pos) :
    d.portDecided p r x = d.portAfter p r (d.lineFate p r x) := by
  unfold Device.portDecided
  cases d.lineFate p r x <;> rfl

/-- What fate `f` of the line at `x` makes of a device: the row, its port, the lost line's record, an event and a counter. -/
structure Device.Decided (d : Device) (p : PortIx) (r : RowIx) (x : Pos) (f : LineFate) (b : Device) : Prop where
  same : b = { d with
    pc := { d.pc with queue := queueLost (lineUnder d.pc.queue x) (f = .starved) (f = .skipped) d.pc.queue }
    ou := { d.ou with headEvents := b.ou.headEvents, headCounts := b.ou.headCounts }
    rf := b.rf
    hp := b.hp }
  pipe : ∀ p' r', b.pipe p' r' = if p' = p ∧ r' = r then (d.pipe p r).decided d.now x f else d.pipe p' r'
  port : ∀ p', b.port p' = if p' = p then d.portAfter p r f else d.port p'
  event : ∀ p', vget b.ou.headEvents p' = vget d.ou.headEvents p' |||
    (if p' = p ∧ f = .skipped then 8 else 0) ||| (if p' = p ∧ f = .starved then 4 else 0)
  count : headCounted d b (fun p' c => if p' = p ∧
    ((c = .skipped ∧ f = .skipped) ∨ (c = .fired ∧ f = .fired) ∨ (c = .starved ∧ f = .starved)) then 1 else 0)

section Deciding
variable (d : Device) (p : PortIx) (r : RowIx) (x : Pos)

/-- The row's decision, by the fate of the line. -/
def Device.undergo (d : Device) (p : PortIx) (r : RowIx) (x : Pos) (f : LineFate) : Device :=
  match f with
  | .untouched => d
  | .skipped => d.skip p (lineUnder d.pc.queue x)
  | .fired => d.fire p r
  | .held => d.modPipe p r (fun q => { q with hold := some x })
  | .starved => d.starve p r (lineUnder d.pc.queue x)

theorem Device.undergo_eq (prints : d.printing p r = true) :
    (if (d.head p).testMode.fetches && (lineUnder d.pc.queue x).isNone then d else d.judgeLine p r x (lineUnder d.pc.queue x)) =
      d.undergo p r x (d.lineFate p r x) := by
  unfold Device.judgeLine Device.lineFate
  by_cases gap : ((d.head p).testMode = .normal ∨ (d.head p).testMode = .mute) ∧ lineUnder d.pc.queue x = none
  · rw [if_pos (by rw [Bool.and_eq_true, TestMode.fetches_iff, Option.isNone_iff_eq_none]; exact gap)]
    simp only [prints, gap, and_self, or_true, if_true]
    rfl
  · rw [if_neg (by rw [Bool.and_eq_true, TestMode.fetches_iff, Option.isNone_iff_eq_none]; exact gap)]
    simp only [prints, gap, or_false, Bool.true_eq_false, if_false]
    by_cases held : (d.pipe p r).hold.isSome = true
    · simp only [held, if_true]
      rfl
    · rw [Bool.not_eq_true] at held
      by_cases loaded : (d.pipe p r).latch = .loaded x
      · by_cases passed : d.mfiPassed p r = true
        · have := (d.mfiPassed_iff p r).1 passed
          rw [Device.mfi_eq] at this
          simp only [held, loaded, passed, this, if_true, if_false, Bool.false_eq_true]
          rfl
        · have := mt (d.mfiPassed_iff p r).2 passed
          rw [Device.mfi_eq] at this
          rw [Bool.not_eq_true] at passed
          simp only [held, loaded, passed, this, if_true, if_false, Bool.false_eq_true]
          rfl
      · simp only [held, loaded, if_false, Bool.false_eq_true]
        rfl

theorem Device.port_ready (prints : d.printing p r = true) : (d.port p).state = .ready := by
  rw [Device.printing, Bool.and_eq_true, beq_iff_eq] at prints
  exact prints.2

theorem Device.pipe_modPipe_at (g : Pipeline → Pipeline) (p' : PortIx) (r' : RowIx) :
    (d.modPipe p r g).pipe p' r' = if p' = p ∧ r' = r then g (d.pipe p r) else d.pipe p' r' := by
  refine (rget_rmod _ _ _ _ _ _).trans ?_
  split
  · next here => rw [here.1, here.2]; rfl
  · rfl

theorem Device.port_modPort_at (g : HeadPort → HeadPort) (p' : PortIx) :
    (d.modPort p g).port p' = if p' = p then g (d.port p) else d.port p' := by
  rw [Device.port_modPort]
  split
  · next here => rw [here]
  · rfl

theorem Device.decided_untouched : d.Decided p r x .untouched d where
  same := by rw [queueLost_kept _ (by decide) (by decide)]
  pipe p' r' := by
    split
    · next here => rw [here.1, here.2]; rfl
    · rfl
  port p' := by
    split
    · next here => rw [here]; rfl
    · rfl
  event p' := by simp
  count := headCounted_congr (headCounted_same d d rfl) fun p' c => by simp

theorem Device.decided_held : d.Decided p r x .held (d.undergo p r x .held) where
  same := by
    rw [queueLost_kept _ (by decide) (by decide)]
    rfl
  pipe := d.pipe_modPipe_at p r _
  port p' := by
    split
    · next here => rw [here]; rfl
    · rfl
  event p' := by
    simp
    rfl
  count := headCounted_congr (headCounted_same d _ rfl) fun p' c => by simp

theorem Device.decided_fired (ready : (d.port p).state = .ready) : d.Decided p r x .fired (d.undergo p r x .fired) where
  same := by
    rw [queueLost_kept _ (by decide) (by decide)]
    exact (d.fire_eq p r).trans (by rw [Device.undergo, d.fire_eq p r])
  pipe p' r' := by
    rw [Device.undergo, d.fire_eq p r]
    exact d.pipe_modPipe_at p r _ p' r'
  port p' := by
    rw [Device.undergo, d.fire_eq p r, HeadPort.fired, if_pos ready]
    exact vget_vset _ _ _ _
  event p' := by
    rw [Device.undergo, d.fire_eq p r]
    simp
  count := headCounted_congr (d.fire_headCounted p r) fun p' c => by simp

/-- A lost line counted, shown in the head's event word and in its record. -/
def Device.lineLost (d : Device) (p : PortIx) (x : Pos) (e : HeadEvent) (k : HeadCounter) (starved skipped : Bool) : Device :=
  { (d.countHead p k 1).setHeadEvent p e with
    pc := { d.pc with queue := queueLost (lineUnder d.pc.queue x) starved skipped d.pc.queue } }

theorem Device.lineLost_event (e : HeadEvent) (k : HeadCounter) (starved skipped : Bool) (p' : PortIx) :
    vget (d.lineLost p x e k starved skipped).ou.headEvents p' =
      vget d.ou.headEvents p' ||| (if p' = p then BitVec.ofNat 32 (2 ^ e.bit) else 0) := by
  refine (vget_vmod _ _ _ _).trans ?_
  split
  · rfl
  · exact BitVec.or_zero.symm

theorem Device.lineLost_counted (e : HeadEvent) (k : HeadCounter) (starved skipped : Bool) :
    headCounted d (d.lineLost p x e k starved skipped) (fun p' c => if p' = p ∧ c = k then 1 else 0) :=
  headCounted_of_counts (headCounted_countHead d p k 1) rfl

theorem Device.undergo_skipped : d.undergo p r x .skipped = d.lineLost p x .skipped .skipped false true :=
  ((d.countHead p .skipped 1).setHeadEvent p .skipped).reportLost_eq x false true

theorem Device.decided_skipped : d.Decided p r x .skipped (d.undergo p r x .skipped) := by
  rw [Device.undergo_skipped]
  refine ⟨rfl, fun p' r' => ?_, fun p' => ?_, fun p' => ?_, ?_⟩
  · split
    · next here => rw [here.1, here.2]; rfl
    · rfl
  · split
    · next here => rw [here]; rfl
    · rfl
  · rw [Device.lineLost_event]
    simp [HeadEvent.bit]
  · exact headCounted_congr (d.lineLost_counted p x .skipped .skipped false true) fun p' c => by simp

/-- What a starve makes of the row and its port, by the latch. -/
theorem Device.undergo_starved (ready : (d.port p).state = .ready) : d.undergo p r x .starved =
    let e := d.lineLost p x .starved .starved true false
    if (d.pipe p r).latch.isLoaded then
      (e.modPort p (fun hp => { hp with tokens := hp.tokens ++ [.discard r] })).modPipe p r (fun q => { q with latch := .clear })
    else e := by
  have lost : ((d.countHead p .starved 1).setHeadEvent p .starved).reportLost (lineUnder d.pc.queue x) 1 0 =
      d.lineLost p x .starved .starved true false := ((d.countHead p .starved 1).setHeadEvent p .starved).reportLost_eq x true false
  have discards := (d.lineLost p x .starved .starved true false).raiseToken_ready p (.discard r) ready
  change d.starve p r (lineUnder d.pc.queue x) = _
  rw [Device.starve, lost]
  change (match (d.pipe p r).latch with | .loaded _ => _ | .sending _ => _ | .clear => _) = _
  cases latch : (d.pipe p r).latch with
  | loaded y =>
    dsimp only
    rw [discards]
    rfl
  | sending y => rfl
  | clear => rfl

theorem Device.decided_starved (ready : (d.port p).state = .ready) : d.Decided p r x .starved (d.undergo p r x .starved) := by
  rw [d.undergo_starved p r x ready]
  have events := d.lineLost_event p x .starved .starved true false
  have counts := d.lineLost_counted p x .starved .starved true false
  dsimp only
  by_cases loaded : (d.pipe p r).latch.isLoaded = true
  · rw [if_pos loaded]
    refine ⟨rfl, fun p' r' => ?_, fun p' => ?_, fun p' => ?_, ?_⟩
    · rw [Pipeline.decided, if_pos loaded]
      exact Device.pipe_modPipe_at _ p r _ p' r'
    · rw [Device.portAfter, if_pos loaded]
      exact Device.port_modPort_at _ p _ p'
    · refine (events p').trans ?_
      simp [HeadEvent.bit]
    · exact headCounted_congr (headCounted_of_counts counts rfl) fun p' c => by simp
  · rw [if_neg loaded]
    refine ⟨rfl, fun p' r' => ?_, fun p' => ?_, fun p' => ?_, ?_⟩
    · rw [Pipeline.decided, if_neg loaded]
      split
      · next here => rw [here.1, here.2]; rfl
      · rfl
    · rw [Device.portAfter, if_neg loaded]
      split
      · next here => rw [here]; rfl
      · rfl
    · refine (events p').trans ?_
      simp [HeadEvent.bit]
    · exact headCounted_congr counts fun p' c => by simp

theorem Device.decided_undergo (prints : d.printing p r = true) (f : LineFate) : d.Decided p r x f (d.undergo p r x f) := by
  have ready := d.port_ready p r prints
  cases f with
  | untouched => exact d.decided_untouched p r x
  | skipped => exact d.decided_skipped p r x
  | fired => exact d.decided_fired p r x ready
  | held => exact d.decided_held p r x
  | starved => exact d.decided_starved p r x ready

end Deciding

end Sys2Proof.Machine
end

section
/-! PROOFS. The Row Firing Unit's whole part at a row line event: decision, done notice, stage and hand-over (R130, R142 to R151). -/

namespace Sys2Proof.Machine

/-! ### The done notice (R88, R89, R150) -/

/-- The ring of a head's row after the row line event at `x`. -/
def Device.ringAfter (d : Device) (p : PortIx) (r : RowIx) (x : Pos) : Option Ring :=
  if d.rowEnabled p r then (lineUnder d.pc.queue x).elim (d.ring p) (fun pl => (d.ring p).map (fun g => (g.mark d.pc r pl).release))
  else d.ring p

theorem Device.noticeAt_same (d : Device) (p : PortIx) (r : RowIx) (pl : Option PageLine) :
    d.noticeAt p r pl = { d with ls := { d.ls with rings := (d.noticeAt p r pl).ls.rings } } := by
  cases pl <;> rfl

theorem Device.noticeAt_ring (d : Device) (p : PortIx) (r : RowIx) (pl : Option PageLine) (p' : PortIx) :
    (d.noticeAt p r pl).ring p' =
      if p' = p then pl.elim (d.ring p) (fun l => (d.ring p).map (fun g => (g.mark d.pc r l).release)) else d.ring p' := by
  cases pl with
  | none =>
    split
    · next here => rw [here]; rfl
    · rfl
  | some l =>
    refine (vget_vmod _ _ _ _).trans ?_
    split
    · next here => rw [here]; rfl
    · rfl

theorem Ring.mark_queueLost (g : Ring) (pc : PageControl) (pl : Option PageLine) (starved skipped : Bool) (r : RowIx) (l : PageLine) :
    g.mark { pc with queue := queueLost pl starved skipped pc.queue } r l = g.mark pc r l := by
  simp only [Ring.mark, before_queueLost]

/-! ### Rows made ready, their holds and tokens -/

theorem Pipeline.filled_hold (h : HeadDescr) (pc : PageControl) (ring : Option Ring) (z : Pos) (q : Pipeline) :
    (q.filled h pc ring z).hold = q.hold ∧ (q.filled h pc ring z).lastFire = q.lastFire := by
  unfold Pipeline.filled
  split <;> exact ⟨rfl, rfl⟩

theorem Pipeline.prepared_hold (h : HeadDescr) (pc : PageControl) (ring : Option Ring) (z : Pos) (q : Pipeline) :
    (q.prepared h pc ring z).hold = q.hold ∧ (q.prepared h pc ring z).lastFire = q.lastFire := by
  have once := q.filled_hold h pc ring z
  unfold Pipeline.prepared
  dsimp only
  split
  · exact ⟨(Pipeline.filled_hold _ _ _ _ _).1.trans once.1, (Pipeline.filled_hold _ _ _ _ _).2.trans once.2⟩
  · exact once

section Ready
variable (d : Device) (p : PortIx) (r : RowIx)

theorem Device.prepare_hold : ((d.prepare p r).pipe p r).hold = (d.pipe p r).hold ∧
    ((d.prepare p r).pipe p r).lastFire = (d.pipe p r).lastFire := by
  cases prints : d.printing p r with
  | false => rw [d.prepare_of_not_printing p r prints]; exact ⟨rfl, rfl⟩
  | true =>
    by_cases active : d.jobActive = true
    · rw [d.prepare_pipe p r active prints]
      exact Pipeline.prepared_hold _ _ _ _ _
    · rw [Device.prepare, d.fillStage_of_not p r (Or.inl (Bool.eq_false_iff.2 active))]
      cases hand : (d.pipe p r).toHand with
      | none => rw [d.handOver_of_none p r hand]; exact ⟨rfl, rfl⟩
      | some y =>
        rw [d.handOver_pipe_of_some p r hand prints, if_neg active]
        exact ⟨rfl, rfl⟩

theorem HeadPort.takeFrame_tokens (hp : HeadPort) (h : HeadDescr) (t : Pos) (codes : Option (List Nat)) :
    (hp.takeFrame h r t codes).tokens = hp.tokens := by rw [HeadPort.takeFrame_eq]

theorem Device.prepare_tokens : ((d.prepare p r).port p).tokens = (d.port p).tokens := by
  cases prints : d.printing p r with
  | false => rw [d.prepare_of_not_printing p r prints]
  | true =>
    rw [Device.prepare, Device.handOver_port _ p r (by rw [Device.fillStage_printing]; exact prints), Device.fillStage_port]
    split
    · exact HeadPort.takeFrame_tokens r _ _ _ _
    · rfl

/-- A stage that the row did not have FETCHING before had its fetch raised. -/
theorem Device.prepare_asks {g : Ring} (ring : d.ring p = some g) {y : Pos} {pl : PageLine} (other : (d.pipe p r).stage ≠ .fetching y pl)
    (fetching : ((d.prepare p r).pipe p r).stage = .fetching y pl) : (d.prepare p r).fetchRaised p r g pl := by
  by_cases empty : (d.pipe p r).stage = .empty
  · exact d.prepare_raised p r ring empty fetching
  have still := d.fillStage_of_not p r (.inr (.inr empty))
  rw [Device.prepare, still] at fetching ⊢
  cases prints : d.printing p r with
  | false =>
    rw [d.handOver_of_not_printing p r prints] at fetching
    exact absurd fetching other
  | true =>
    cases hand : (d.pipe p r).toHand with
    | none =>
      rw [d.handOver_of_none p r hand] at fetching
      exact absurd fetching other
    | some x =>
      rw [d.handOver_of_some p r hand prints] at fetching ⊢
      exact (d.handed p r x).fillStage_raised p r ring (by rw [d.handed_pipe p r x]) fetching

end Ready

/-! ### The unit's part as a whole -/

/-- The records after a row's decision at `x`, a lost line counted. -/
def Device.queueCounted (d : Device) (p : PortIx) (r : RowIx) (x : Pos) : List PageRec :=
  queueLost (lineUnder d.pc.queue x) (d.lineFate p r x = .starved) (d.lineFate p r x = .skipped) d.pc.queue

/-- What the Row Firing Unit makes of device `d` at the line event of a row at `x`. -/
structure Device.Fires (d : Device) (p : PortIx) (r : RowIx) (x : Pos) (b : Device) : Prop where
  same : b = { d with
    pu := (d.modRowPos p r (fun q => { q with position := some x })).pu
    pc := { d.pc with queue := d.queueCounted p r x }
    ou := { d.ou with headEvents := b.ou.headEvents, headCounts := b.ou.headCounts }
    ls := { d.ls with rings := b.ls.rings, fetchRaised := b.ls.fetchRaised }
    rf := b.rf
    hp := b.hp }
  ring : ∀ p', b.ring p' = if p' = p then d.ringAfter p r x else d.ring p'
  event : ∀ p', vget b.ou.headEvents p' = vget d.ou.headEvents p' |||
    (if p' = p ∧ d.lineFate p r x = .skipped then 8 else 0) ||| (if p' = p ∧ d.lineFate p r x = .starved then 4 else 0)
  count : headCounted d b (fun p' c => if p' = p ∧
    ((c = .skipped ∧ d.lineFate p r x = .skipped) ∨ (c = .fired ∧ d.lineFate p r x = .fired) ∨
      (c = .starved ∧ d.lineFate p r x = .starved)) then 1 else 0)
  pipe : ∀ p' r', ¬ (p' = p ∧ r' = r) → b.pipe p' r' = d.pipe p' r'
  port : ∀ p', p' ≠ p → b.port p' = d.port p'
  still : d.printing p r = false → b.rf = d.rf ∧ b.hp = d.hp
  hold : (b.pipe p r).hold = (d.rowDecided p r x).hold
  lastFire : (b.pipe p r).lastFire = (d.rowDecided p r x).lastFire
  tokens : (b.port p).tokens = (d.portDecided p r x).tokens
  made : d.jobActive = true → d.printing p r = true →
    b.pipe p r = (d.rowDecided p r x).prepared (d.head p) d.pc (d.ringAfter p r x) x
  hands : d.jobActive = true → d.printing p r = true →
    b.port p = match ((d.rowDecided p r x).filled (d.head p) d.pc (d.ringAfter p r x) x).toHand with
      | some y => (d.portDecided p r x).takeFrame (d.head p) r y.1 y.2
      | none => d.portDecided p r x
  asks : d.printing p r = true → ∀ g y pl, d.ringAfter p r x = some g → (d.rowDecided p r x).stage ≠ .fetching y pl →
    (b.pipe p r).stage = .fetching y pl → b.fetchRaised p r g pl
  raised : ∀ f ∈ d.ls.fetchRaised, f ∈ b.ls.fetchRaised

section Firing
variable (d : Device) (p : PortIx) (r : RowIx) (x : Pos)

/-- The device with the row's position at `x`. -/
def Device.rowAt (d : Device) (p : PortIx) (r : RowIx) (x : Pos) : Device := d.modRowPos p r (fun q => { q with position := some x })

theorem Device.lineFate_idle (silent : d.printing p r = false) : d.lineFate p r x = .untouched := if_pos (Or.inl silent)

theorem Device.rowDecided_idle (silent : d.printing p r = false) : d.rowDecided p r x = d.pipe p r := by
  rw [Device.rowDecided, d.lineFate_idle p r x silent, silent]
  rfl

theorem Device.portDecided_idle (silent : d.printing p r = false) : d.portDecided p r x = d.port p := by
  rw [Device.portDecided_eq, d.lineFate_idle p r x silent]
  rfl

/-- A row that does not print gives no more than its done notice. -/
theorem Device.fires_idle (silent : d.printing p r = false) :
    d.Fires p r x ((d.rowAt p r x).firingEvent p r x (lineUnder d.pc.queue x)) := by
  have fate := d.lineFate_idle p r x silent
  have event : (d.rowAt p r x).firingEvent p r x (lineUnder d.pc.queue x) =
      if d.rowEnabled p r then (d.rowAt p r x).noticeAt p r (lineUnder d.pc.queue x) else d.rowAt p r x :=
    if_neg (show ¬ d.printing p r = true by rw [silent]; exact Bool.false_ne_true)
  rw [event]
  have whole : ∀ b : Device, b = { d.rowAt p r x with ls := { d.ls with rings := b.ls.rings } } →
      (∀ p', b.ring p' = if p' = p then d.ringAfter p r x else d.ring p') → d.Fires p r x b := fun b same ring => by
    have ou : b.ou = d.ou := by rw [same]; rfl
    have rf : b.rf = d.rf := by rw [same]; rfl
    have hp : b.hp = d.hp := by rw [same]; rfl
    have fetches : b.ls.fetchRaised = d.ls.fetchRaised := by rw [same]
    have pipe : ∀ p' r', b.pipe p' r' = d.pipe p' r' := fun p' r' => by rw [Device.pipe, rf, Device.pipe]
    have port : ∀ p', b.port p' = d.port p' := fun p' => by rw [Device.port, hp, Device.port]
    refine ⟨?_, ring, fun p' => ?_, ?_, fun p' r' _ => pipe p' r', fun p' _ => port p', fun _ => ⟨rf, hp⟩, ?_, ?_, ?_,
      fun _ prints => absurd prints (by rw [silent]; exact Bool.false_ne_true),
      fun _ prints => absurd prints (by rw [silent]; exact Bool.false_ne_true),
      fun prints => absurd prints (by rw [silent]; exact Bool.false_ne_true), fun f mem => ?_⟩
    · rw [Device.queueCounted, fate, queueLost_kept _ (by decide) (by decide)]
      rw [ou, rf, hp, fetches]
      exact same
    · rw [ou, fate]
      simp
    · rw [fate]
      exact headCounted_congr (headCounted_same d b (by rw [ou])) fun p' c => by simp
    · rw [d.rowDecided_idle p r x silent, pipe]
    · rw [d.rowDecided_idle p r x silent, pipe]
    · rw [d.portDecided_idle p r x silent, port]
    · rw [fetches]
      exact mem
  by_cases enabled : d.rowEnabled p r = true
  · rw [if_pos enabled]
    refine whole _ ((d.rowAt p r x).noticeAt_same p r _) fun p' => ?_
    rw [Device.noticeAt_ring, Device.ringAfter, if_pos enabled]
    rfl
  · rw [if_neg enabled]
    refine whole _ rfl fun p' => ?_
    rw [Device.ringAfter, if_neg enabled]
    split
    · next here => rw [here]; rfl
    · rfl

/-- The device of a printing row after its decision and its done notice, a passed stage dropped. -/
def Device.judgedRow (d : Device) (p : PortIx) (r : RowIx) (x : Pos) : Device :=
  (((d.rowAt p r x).undergo p r x (d.lineFate p r x)).noticeAt p r (lineUnder d.pc.queue x)).modPipe p r
    (fun q => { q with stage := q.stage.dropAt x })

theorem Device.firingEvent_printing (prints : d.printing p r = true) :
    (d.rowAt p r x).firingEvent p r x (lineUnder d.pc.queue x) = (d.judgedRow p r x).prepare p r := by
  rw [Device.firingEvent]
  refine (if_pos (show (d.rowAt p r x).printing p r = true from prints)).trans ?_
  have judged := (d.rowAt p r x).undergo_eq p r x prints
  change (if (d.head p).testMode.fetches && (lineUnder d.pc.queue x).isNone then d.rowAt p r x
    else (d.rowAt p r x).judgeLine p r x (lineUnder d.pc.queue x)) = (d.rowAt p r x).undergo p r x (d.lineFate p r x) at judged
  exact congrArg (fun e : Device => ((e.noticeAt p r (lineUnder d.pc.queue x)).modPipe p r
    (fun q => { q with stage := q.stage.dropAt x })).prepare p r) judged

/-- What stands before the row is made ready. -/
structure Device.Judges (b : Device) : Prop where
  same : b = { d with
    pu := (d.rowAt p r x).pu
    pc := { d.pc with queue := d.queueCounted p r x }
    ou := { d.ou with headEvents := b.ou.headEvents, headCounts := b.ou.headCounts }
    ls := { d.ls with rings := b.ls.rings }
    rf := b.rf
    hp := b.hp }
  ring : ∀ p', b.ring p' = if p' = p then d.ringAfter p r x else d.ring p'
  pipe : ∀ p' r', b.pipe p' r' = if p' = p ∧ r' = r then d.rowDecided p r x else d.pipe p' r'
  port : ∀ p', b.port p' = if p' = p then d.portDecided p r x else d.port p'
  event : ∀ p', vget b.ou.headEvents p' = vget d.ou.headEvents p' |||
    (if p' = p ∧ d.lineFate p r x = .skipped then 8 else 0) ||| (if p' = p ∧ d.lineFate p r x = .starved then 4 else 0)
  count : headCounted d b (fun p' c => if p' = p ∧
    ((c = .skipped ∧ d.lineFate p r x = .skipped) ∨ (c = .fired ∧ d.lineFate p r x = .fired) ∨
      (c = .starved ∧ d.lineFate p r x = .starved)) then 1 else 0)

theorem Device.judges_judgedRow (prints : d.printing p r = true) : d.Judges p r x (d.judgedRow p r x) := by
  have decided := (d.rowAt p r x).decided_undergo p r x prints (d.lineFate p r x)
  have enabled : d.rowEnabled p r = true := by
    rw [Device.printing, Bool.and_eq_true] at prints
    exact prints.1
  unfold Device.judgedRow
  generalize (d.rowAt p r x).undergo p r x (d.lineFate p r x) = e at decided
  have noticed := e.noticeAt_same p r (lineUnder d.pc.queue x)
  have rings := e.noticeAt_ring p r (lineUnder d.pc.queue x)
  generalize e.noticeAt p r (lineUnder d.pc.queue x) = f at noticed rings
  have same : f = { d with
      pu := (d.rowAt p r x).pu
      pc := { d.pc with queue := d.queueCounted p r x }
      ou := { d.ou with headEvents := f.ou.headEvents, headCounts := f.ou.headCounts }
      ls := { d.ls with rings := f.ls.rings }
      rf := f.rf
      hp := f.hp } := by
    rw [show f.ou = e.ou by rw [noticed], show f.rf = e.rf by rw [noticed], show f.hp = e.hp by rw [noticed]]
    refine noticed.trans ?_
    generalize f.ls.rings = rings
    exact (congrArg (fun e : Device => ({ e with ls := { e.ls with rings := rings } } : Device)) decided.same).trans rfl
  have pc : e.pc = { d.pc with queue := d.queueCounted p r x } := by
    rw [decided.same]
    rfl
  have ring : ∀ p', e.ring p' = d.ring p' := fun p' => by rw [decided.same]; rfl
  have pipes : ∀ p' r', f.pipe p' r' = e.pipe p' r' := fun p' r' => by rw [noticed]; rfl
  have ports : ∀ p', f.port p' = e.port p' := fun p' => by rw [noticed]; rfl
  refine ⟨?_, fun p' => ?_, fun p' r' => ?_, fun p' => ?_, ?_, ?_⟩
  · exact (congrArg (fun f : Device => f.modPipe p r (fun q => { q with stage := q.stage.dropAt x })) same).trans rfl
  · refine (rings p').trans ?_
    rw [Device.ringAfter, if_pos enabled, ring, ring, pc]
    simp only [Device.queueCounted, Ring.mark_queueLost]
  · rw [Device.pipe_modPipe_at]
    by_cases here : p' = p ∧ r' = r
    · rw [if_pos here, if_pos here, pipes, decided.pipe, if_pos ⟨rfl, rfl⟩, Device.rowDecided, if_pos prints, Stage.dropAt_eq]
      rfl
    · rw [if_neg here, if_neg here, pipes, decided.pipe, if_neg here]
      rfl
  · refine (ports p').trans ((decided.port p').trans ?_)
    rw [d.portDecided_eq]
    rfl
  · have ou : f.ou = e.ou := by rw [noticed]
    intro p'
    refine (congrArg (fun o : OrderUnit => vget o.headEvents p') ou).trans (decided.event p')
  · have ou : f.ou = e.ou := by rw [noticed]
    exact headCounted_of_counts decided.count (congrArg (·.headCounts) ou)

theorem Device.portDecided_state : (d.portDecided p r x).state = (d.port p).state := by
  rw [d.portDecided_eq]
  cases d.lineFate p r x with
  | starved =>
    rw [Device.portAfter]
    split <;> rfl
  | _ => rfl

/-- A printing row's decision and notice, and the row made ready. -/
theorem Device.fires_printing (prints : d.printing p r = true) :
    d.Fires p r x ((d.rowAt p r x).firingEvent p r x (lineUnder d.pc.queue x)) := by
  have judges := d.judges_judgedRow p r x prints
  rw [d.firingEvent_printing p r x prints]
  generalize d.judgedRow p r x = e at judges
  have raises := e.raises_prepare p r
  have local_ := e.localTo_prepare (p := p) (r := r) (R := (· = r)) rfl
  have prints' : e.printing p r = true := by
    refine (Device.printing_congr (a := d) (by rw [judges.same]) ?_ r).trans prints
    rw [judges.port, if_pos rfl, d.portDecided_state]
  have pipe : e.pipe p r = d.rowDecided p r x := (judges.pipe p r).trans (if_pos ⟨rfl, rfl⟩)
  have port : e.port p = d.portDecided p r x := (judges.port p).trans (if_pos rfl)
  have ring : e.ring p = d.ringAfter p r x := (judges.ring p).trans (if_pos rfl)
  have head : e.head p = d.head p := by rw [judges.same]; rfl
  have active : e.jobActive = d.jobActive := by rw [judges.same]; rfl
  have standing : e.standing p r = x := by
    have pos : e.rowPos p r = { d.rowPos p r with position := some x } := by
      rw [Device.rowPos, judges.same]
      exact (rget_rmod _ _ _ _ _ _).trans (if_pos ⟨rfl, rfl⟩)
    rw [Device.standing, pos]
    rfl
  have pc : e.pc = { d.pc with queue := d.queueCounted p r x } := by rw [judges.same]
  have stages : ∀ y, stageFor (e.head p) e.pc (e.ring p) y = stageFor (d.head p) d.pc (d.ringAfter p r x) y := fun y => by
    rw [head, pc, ring]
    exact stageFor_queueLost _ _ _ _ _ _ _
  have filled : ∀ q : Pipeline, q.filled (e.head p) e.pc (e.ring p) (e.standing p r) = q.filled (d.head p) d.pc (d.ringAfter p r x) x :=
    fun q => by simp only [Pipeline.filled, stages, standing]
  have prepared : ∀ q : Pipeline, q.prepared (e.head p) e.pc (e.ring p) (e.standing p r) =
      q.prepared (d.head p) d.pc (d.ringAfter p r x) x := fun q => by simp only [Pipeline.prepared, filled]
  have holds := e.prepare_hold p r
  refine ⟨?_, fun p' => (raises.ring p').trans (judges.ring p'), fun p' => ?_, headCounted_of_counts judges.count (by rw [raises.ou]),
    fun p' r' ne => ?_, fun p' ne => ?_, fun silent => absurd prints (by rw [silent]; exact Bool.false_ne_true),
    holds.1.trans (by rw [pipe]), holds.2.trans (by rw [pipe]), (e.prepare_tokens p r).trans (by rw [port]), fun isActive _ => ?_,
    fun isActive _ => ?_, fun _ g y pl has ne fetching => ?_, fun f mem => ?_⟩
  · have rings : (e.prepare p r).ls.rings = e.ls.rings := by rw [raises.same]
    rw [raises.ou, rings]
    refine raises.same.trans ?_
    exact (congrArg (fun e' : Device => ({ e' with
      ls := { e'.ls with fetchRaised := (e.prepare p r).ls.fetchRaised }
      rf := (e.prepare p r).rf
      hp := (e.prepare p r).hp } : Device)) judges.same).trans rfl
  · rw [raises.ou]
    exact judges.event p'
  · rw [local_.pipe p' r' ne, judges.pipe, if_neg ne]
  · rw [local_.port p' ne, judges.port, if_neg ne]
  · rw [e.prepare_pipe p r (active.trans isActive) prints', prepared, pipe]
  · rw [e.prepare_port p r (active.trans isActive) prints', filled, pipe, port, head] <;> rfl
  · exact e.prepare_asks p r (ring.trans has) (by rw [pipe]; exact ne) fetching
  · refine raises.raised f ?_
    rw [judges.same]
    exact mem

/-- The Row Firing Unit's part of a row line event. -/
theorem Device.fires_firingEvent : d.Fires p r x ((d.rowAt p r x).firingEvent p r x (lineUnder d.pc.queue x)) := by
  cases prints : d.printing p r with
  | false => exact d.fires_idle p r x prints
  | true => exact d.fires_printing p r x prints

end Firing

end Sys2Proof.Machine
end

section
/-! PROOFS. Page Control at a row line event (R129 to R131), and what a row line event makes of a device. -/

namespace Sys2Proof.Machine

/-! ### The queue under the rows -/

theorem Device.pagesAt_eq (d : Device) (p : PortIx) (r : RowIx) (x : Pos) :
    d.pagesAt p r x = (d.queueCounted p r x).map (PageRec.activateAt x) := by
  rw [Device.queueCounted, queueLost, List.map_map, Device.pagesAt]
  refine List.map_congr_left fun q _ => ?_
  have plus : ∀ (w : Word) (lost : LineFate), plusOne w (d.lineFate p r x = lost) =
      if d.lineFate p r x = lost then BitVec.ofNat 32 (min (w.toNat + 1) 4294967295) else w := fun w lost => by
    by_cases is : d.lineFate p r x = lost
    · simp [plusOne, is]
    · simp [plusOne, is]
  simp only [Function.comp_apply, PageRec.activateAt, plus]
  cases state : q.state with
  | announced => simp only [state]
  | active b => simp only [state]
  | bound b =>
    by_cases behind : notAhead b x
    · simp only [(atOrBehind_iff b x).2 behind, behind, if_true]
    · simp only [Bool.eq_false_iff.2 (mt (atOrBehind_iff b x).1 behind), behind, Bool.false_eq_true, if_false, state]

/-- Device `a` has the positions of device `d` with the row at `x`, and its enabled rows. -/
def Device.standsAt (d : Device) (p : PortIx) (r : RowIx) (x : Pos) (a : Device) : Prop :=
  (∀ p' r', (a.rowPos p' r').position = if (p', r') = (p, r) then some x else (d.rowPos p' r').position) ∧
    ∀ p' r', a.rowEnabled p' r' = d.rowEnabled p' r'

theorem Device.allRowsReached_eq {d a : Device} {p : PortIx} {r : RowIx} {x : Pos} (stands : d.standsAt p r x a) (y : Pos) :
    a.allRowsReached y = d.allReach p r x y := by
  obtain ⟨position, enabled⟩ := stands
  rw [Device.allRowsReached, Device.enabledRows, List.all_filter, Device.allReach]
  have near : ∀ z : Pos, (!behind z y) = decide ((z - y).toNat < 2147483648) := fun z => by
    rw [Bool.eq_iff_iff, Bool.not_eq_true', ← Bool.not_eq_true, behind_iff, decide_eq_true_iff, Nat.not_le]
  refine congrArg (fun f => allPortRows.all f) (funext fun k => ?_)
  rw [enabled, position]
  simp only [near]

theorem Device.finishes_eq {d a : Device} {p : PortIx} {r : RowIx} {x : Pos} (stands : d.standsAt p r x a) (q : PageRec) :
    a.finishes q = d.pageOver p r x q := by
  rw [Device.finishes, Device.pageOver, PageRec.base]
  cases q.state with
  | announced => rfl
  | bound b => exact Device.allRowsReached_eq stands _
  | active b => exact Device.allRowsReached_eq stands _

/-! ### Pages that finish (R131) -/

theorem takeWhile_all_iff {α : Type} (f : α → Bool) (l : List α) :
    l.takeWhile f ≠ [] ∧ l.dropWhile f = [] ↔ l ≠ [] ∧ l.takeWhile f = l := by
  have both := List.takeWhile_append_dropWhile (p := f) (l := l)
  constructor
  · rintro ⟨some_, none_⟩
    rw [none_, List.append_nil] at both
    exact ⟨both ▸ some_, both⟩
  · rintro ⟨some_, all⟩
    rw [all] at both
    exact ⟨all.symm ▸ some_, List.append_right_eq_self.1 both⟩

/-- The finishing ends a stopping job (R122). -/
abbrev Device.lastPage (a : Device) : Prop :=
  a.pc.job = .stopping ∧ a.pc.queue.takeWhile a.finishes ≠ [] ∧ a.pc.queue.dropWhile a.finishes = []

theorem Device.finishPages_eq (a : Device) : ∃ hp rf departed devCounts, a.finishPages = { a with
    pc := { a.pc with
      queue := a.pc.queue.dropWhile a.finishes
      departed := departed
      report := ((a.pc.queue.takeWhile a.finishes).getLast?.map
        (fun q => ({ tag := q.tag, starved := q.starved, skipped := q.skipped } : Report))).or a.pc.report
      job := if a.lastPage then .config else a.pc.job
      qualifier := if a.lastPage then none else a.pc.qualifier }
    ou := { a.ou with
      devEvents := a.ou.devEvents ||| (if a.pc.queue.takeWhile a.finishes = [] then 0 else 128) ||| (if a.lastPage then 64 else 0)
      devCounts := devCounts }
    pu := if a.lastPage then a.calmRows.pu else a.pu
    ls := if a.lastPage then a.ls.killFetches (fun _ _ => true) else a.ls
    rf := rf
    hp := hp } ∧
    counted a a.finishPages (fun c => if c = .pagesDone then (a.pc.queue.takeWhile a.finishes).length else 0) ∧
    (∀ p, vget hp p = if a.lastPage then (a.port p).jobEnded true (a.pipe p) else a.port p) ∧
    (∀ p r, rget rf p r = if a.lastPage then (a.pipe p r).jobEnded true else a.pipe p r) ∧ (¬ a.lastPage → rf = a.rf ∧ hp = a.hp) := by
  cases last : (a.pc.queue.takeWhile a.finishes).getLast? with
  | none =>
    have none_ : a.pc.queue.takeWhile a.finishes = [] := List.getLast?_eq_none_iff.1 last
    have all : a.pc.queue.dropWhile a.finishes = a.pc.queue := by
      have := List.takeWhile_append_dropWhile (p := a.finishes) (l := a.pc.queue)
      rwa [none_, List.nil_append] at this
    have on : ¬ a.lastPage := fun is => is.2.1 none_
    have same : a.finishPages = a := by
      unfold Device.finishPages
      simp only [last]
    refine ⟨a.hp, a.rf, a.pc.departed, a.ou.devCounts, ?_, ?_, fun p => ?_, fun p r => ?_, fun _ => ⟨rfl, rfl⟩⟩
    · rw [same]
      simp only [if_neg on, if_pos none_, all, Option.map_none, Option.none_or]
      simp
    · rw [same, none_]
      exact counted_congr (counted_same a a rfl) fun c => by simp
    · rw [if_neg on]; rfl
    · rw [if_neg on]; rfl
  | some q =>
    have some_ : a.pc.queue.takeWhile a.finishes ≠ [] := fun none_ => by
      rw [none_] at last
      cases last
    let e : Device := { a with
      pc := { a.pc with
        queue := a.pc.queue.dropWhile a.finishes
        departed := departTags a.pc.departed ((a.pc.queue.takeWhile a.finishes).map (·.tag))
        report := some { tag := q.tag, starved := q.starved, skipped := q.skipped } }
      ou := { a.ou with devEvents := a.ou.devEvents ||| 128 } }
    have counts := counted_count e .pagesDone (a.pc.queue.takeWhile a.finishes).length
    let f := e.count .pagesDone (a.pc.queue.takeWhile a.finishes).length
    have same : a.finishPages = if a.lastPage then f.endStopping else f := by
      unfold Device.finishPages
      simp only [last]
      refine if_congr ?_ rfl rfl
      exact ⟨fun is => ⟨is.1, some_, is.2⟩, fun is => ⟨is.1, is.2.2⟩⟩
    by_cases ends : a.lastPage
    · rw [if_pos ends] at same
      obtain ⟨hp, rf, ended, ports, pipes⟩ := f.endStopping_eq
      rw [ended] at same
      refine ⟨hp, rf, e.pc.departed, f.ou.devCounts, ?_, ?_, fun p => ?_, fun p r => ?_, fun on => absurd ends on⟩
      · rw [same]
        simp only [if_pos ends, if_neg some_, Option.map_some, Option.some_or]
        rfl
      · rw [same]
        exact counted_of_counts (a := a) counts rfl
      · rw [if_pos ends, ports]; rfl
      · rw [if_pos ends, pipes]; rfl
    · rw [if_neg ends] at same
      refine ⟨a.hp, a.rf, e.pc.departed, f.ou.devCounts, ?_, ?_, fun p => ?_, fun p r => ?_, fun _ => ⟨rfl, rfl⟩⟩
      · rw [same]
        simp only [if_neg ends, if_neg some_, Option.map_some, Option.some_or]
        have bits : a.ou.devEvents ||| 128 = a.ou.devEvents ||| 128 ||| 0 := BitVec.or_zero.symm
        exact (congrArg (fun w : Word => ({ f with ou := { f.ou with devEvents := w } } : Device)) bits).trans rfl
      · rw [same]
        exact counted_of_counts (a := a) counts rfl
      · rw [if_neg ends]; rfl
      · rw [if_neg ends]; rfl

/-! ### The row line event -/

/-- A row line event: the Row Firing Unit's part leaves `f`, Page Control's part the rest (R109, R129 to R131). -/
structure Device.RowEvent (d : Device) (p : PortIx) (r : RowIx) (x : Pos) (f b : Device) : Prop where
  fires : d.Fires p r x f
  same : b = { f with
    pc := { d.pc with
      queue := (d.pagesAt p r x).dropWhile (d.pageOver p r x)
      departed := b.pc.departed
      report := ((d.pagesOver p r x).getLast?.map
        (fun q => ({ tag := q.tag, starved := q.starved, skipped := q.skipped } : Report))).or d.pc.report
      boundLimit := if d.pc.boundLimit.any (d.allReach p r x) then none else d.pc.boundLimit
      job := if d.jobOver p r x then .config else d.pc.job
      qualifier := if d.jobOver p r x then none else d.pc.qualifier }
    ou := { f.ou with
      devEvents := d.ou.devEvents ||| (if d.pagesOver p r x = [] then 0 else 128) ||| (if d.jobOver p r x then 64 else 0)
      devCounts := b.ou.devCounts }
    pu := if d.jobOver p r x then f.calmRows.pu else f.pu
    ls := if d.jobOver p r x then f.ls.killFetches (fun _ _ => true) else f.ls
    rf := b.rf
    hp := b.hp }
  count : counted d b (fun c => if c = .pagesDone then (d.pagesOver p r x).length else 0)
  port : ∀ p', b.port p' = if d.jobOver p r x then (f.port p').jobEnded true (f.pipe p') else f.port p'
  pipe : ∀ p' r', b.pipe p' r' = if d.jobOver p r x then (f.pipe p' r').jobEnded true else f.pipe p' r'
  still : ¬ d.jobOver p r x → b.rf = f.rf ∧ b.hp = f.hp

section Event
variable (d : Device) (p : PortIx) (r : RowIx) (x : Pos)

theorem Device.standsAt_fires {f : Device} (fires : d.Fires p r x f) : d.standsAt p r x f := by
  have rows : ∀ p' r', f.rowPos p' r' = (d.rowAt p r x).rowPos p' r' := fun p' r' => by
    rw [Device.rowPos, fires.same]
    rfl
  refine ⟨fun p' r' => ?_, fun p' r' => by rw [Device.rowEnabled, fires.same]; rfl⟩
  rw [rows]
  refine (congrArg RowPosition.position (rget_rmod _ _ _ _ _ _)).trans ?_
  by_cases here : p' = p ∧ r' = r
  · rw [if_pos here, if_pos (Prod.ext here.1 here.2)]
  · rw [if_neg here, if_neg fun eq => here ⟨congrArg Prod.fst eq, congrArg Prod.snd eq⟩]
    rfl

theorem Device.rowEvent_rowLineEvent : ∃ f, d.RowEvent p r x f (d.rowLineEvent p r x) := by
  let f := (d.rowAt p r x).firingEvent p r x (lineUnder d.pc.queue x)
  have fires : d.Fires p r x f := d.fires_firingEvent p r x
  refine ⟨f, ?_⟩
  have event : d.rowLineEvent p r x = f.pageEvent x := by
    rw [Device.rowLineEvent, PageControl.pageLine_eq]
    rfl
  rw [event]
  generalize f = f at fires
  have stands := d.standsAt_fires p r x fires
  let a : Device := { f with pc := { f.pc with queue := f.pc.queue.map (PageRec.activateAt x) } }
  have pc : a.pc = { d.pc with queue := d.pagesAt p r x } := by
    rw [d.pagesAt_eq]
    change ({ f.pc with queue := f.pc.queue.map (PageRec.activateAt x) } : PageControl) = _
    rw [fires.same]
  have finishes : a.finishes = d.pageOver p r x := funext fun q => Device.finishes_eq (a := a) stands q
  have last : a.lastPage = d.jobOver p r x := by
    rw [Device.lastPage, Device.jobOver, Device.pagesOver, finishes, pc]
    exact propext (and_congr_right fun _ => takeWhile_all_iff _ _)
  have devEvents : a.ou.devEvents = d.ou.devEvents := by
    change f.ou.devEvents = _
    rw [fires.same]
  have before : a.ou.devCounts = d.ou.devCounts := by
    change f.ou.devCounts = _
    rw [fires.same]
  obtain ⟨hp, rf, departed, devCounts, same, counts, ports, pipes, still⟩ := a.finishPages_eq
  simp only [last, finishes, pc] at same counts ports pipes still
  rw [devEvents] at same
  change d.RowEvent p r x f (a.finishPages.clearLimit)
  generalize a.finishPages = g at same counts
  have stands' : d.standsAt p r x g := by
    have position : ∀ p' r', (g.rowPos p' r').position = (a.rowPos p' r').position := fun p' r' => by
      rw [Device.rowPos, same]
      dsimp only
      split
      · exact (congrArg RowPosition.position (rget_mapRows a.pu.rows p' r' RowPosition.calm)).trans rfl
      · rfl
    exact ⟨fun p' r' => (position p' r').trans (stands.1 p' r'), fun p' r' => by
      rw [Device.rowEnabled, same]
      exact stands.2 p' r'⟩
  have limit : g.clearLimit = { g with pc := { g.pc with
      boundLimit := if d.pc.boundLimit.any (d.allReach p r x) then none else d.pc.boundLimit } } := by
    have bound : g.pc.boundLimit = d.pc.boundLimit := by rw [same]
    have reach : g.allRowsReached = d.allReach p r x := funext fun y => Device.allRowsReached_eq stands' y
    rw [Device.clearLimit, bound, reach]
    split
    · rfl
    · rw [← bound]
  have counted_ : counted d g (fun c => if c = .pagesDone then (d.pagesOver p r x).length else 0) := fun c => by
    have := counts c
    rwa [show a.counter c = d.counter c by rw [Device.counter, before]; rfl] at this
  rw [limit]
  refine ⟨fires, ?_, counted_of_counts (a := d) counted_ rfl, fun p' => ?_, fun p' r' => ?_, fun on => ?_⟩
  · have departed_ : g.pc.departed = departed := by rw [same]
    have counts_ : g.ou.devCounts = devCounts := by rw [same]
    have rf_ : g.rf = rf := by rw [same]
    have hp_ : g.hp = hp := by rw [same]
    dsimp only
    rw [departed_, counts_, rf_, hp_, same]
    rfl
  · refine Eq.trans ?_ (ports p')
    exact (congrArg (vget · p') (show g.hp = hp by rw [same]))
  · refine Eq.trans ?_ (pipes p' r')
    exact (congrArg (rget · p' r') (show g.rf = rf by rw [same]))
  · obtain ⟨rf_, hp_⟩ := still on
    exact ⟨(show g.rf = rf by rw [same]).trans rf_, (show g.hp = hp by rw [same]).trans hp_⟩

end Event

end Sys2Proof.Machine
end

section
/-! PROOFS. Row line events and expired interpolation timers (R109, R112, R129 to R132, R142, R145 to R151). -/

namespace Sys2Proof.Machine

/-! ### Expired timers (R112) -/

/-- The device of an expired timer before its row line event. -/
def Device.timerTaken (d : Device) (p : PortIx) (r : RowIx) : Device := d.modRowPos p r (fun q => { q with timer := none, taken := true })

theorem Device.timerExpiry_due {d : Device} {p : PortIx} {r : RowIx} {k : RowTimer} (timer : (d.rowPos p r).timer = some k)
    (due : k.expiry ≤ d.now) : d.timerExpiry p r = (d.timerTaken p r).rowLineEvent p r k.pending := by
  rw [Device.timerExpiry, timer]
  exact if_pos due

/-- A token put in row order leaves the lists as they stand where nothing was raised. -/
theorem Device.inRowOrder_self (d : Device) : d.inRowOrder d = d := by
  have same : d.hp = Vector.ofFn (fun p => (d.port p).sortBehind (d.port p).tokens.length) := by
    simp only [fun p => (d.port p).sortBehind_short (d.port p).tokens.length (Nat.le_succ _)]
    refine Vector.ext fun i low => ?_
    simp [Device.port, vget]
  exact (congrArg (fun hp => ({ d with hp := hp } : Device)) same).symm

theorem exec_timerExpiry {s : State} {p : PortIx} {r : RowIx} {k : RowTimer} (working : s.dev.working)
    (timer : (s.dev.rowPos p r).timer = some k) (due : k.expiry ≤ s.dev.now) :
    exec (.interpolationTimerExpiry p r) s =
      .next { s with dev := (s.dev.inRowOrder ((s.dev.timerTaken p r).rowLineEvent p r k.pending)).settle } := by
  have result := exec_eq_run (.interpolationTimerExpiry p r) s rfl rfl
  rw [State.run_released _ _ working.1] at result
  have effect : s.dev.effect (.interpolationTimerExpiry p r) = s.dev.inRowOrder (s.dev.timerExpiry p r) := rfl
  rw [effect, Device.timerExpiry_due timer due] at result
  exact result

/-! ### Rings (R88, R89) -/

theorem Ring.release_parts (g : Ring) : ∃ gone left, g.release = { g with slots := left, oldest := (g.oldest + gone.length) % g.capacity } ∧
    gone ++ left = g.slots ∧
    (∀ slot ∈ gone, slot.state = .landed ∧ ∀ r : RowIx, vget slot.done r = decide (r.val < g.rowCount)) ∧
    ∀ slot ∈ left.head?, ¬ (slot.state = .landed ∧ ∀ r : RowIx, vget slot.done r = decide (r.val < g.rowCount)) := by
  have releasable : ∀ k : Slot, k.releasable g.rowCount = true ↔
      k.state = .landed ∧ ∀ r : RowIx, vget k.done r = decide (r.val < g.rowCount) := fun k => by
    rw [Slot.releasable, Slot.allDone, Bool.and_eq_true, beq_iff_eq, List.all_eq_true]
    simp only [beq_iff_eq, mem_allRows, forall_const]
  have both := List.takeWhile_append_dropWhile (p := (·.releasable g.rowCount)) (l := g.slots)
  refine ⟨g.slots.takeWhile (·.releasable g.rowCount), g.slots.dropWhile (·.releasable g.rowCount), ?_, both, fun k mem => ?_, fun k first => ?_⟩
  · have length : g.slots.length - (g.slots.dropWhile (·.releasable g.rowCount)).length =
        (g.slots.takeWhile (·.releasable g.rowCount)).length := by
      have := congrArg List.length both
      rw [List.length_append] at this
      omega
    rw [Ring.release, length]
    rfl
  · exact (releasable k).1 (List.mem_takeWhile_imp (p := fun k : Slot => k.releasable g.rowCount) mem)
  · rw [← releasable k, Bool.not_eq_true]
    have head := List.head?_dropWhile_not (p := fun k : Slot => k.releasable g.rowCount) g.slots
    rw [Option.mem_def.1 first] at head
    exact head

theorem Device.RowEvent.ring {d : Device} {p : PortIx} {r : RowIx} {x : Pos} {f b : Device} (event : d.RowEvent p r x f b) (p' : PortIx) :
    b.ring p' = if p' = p then d.ringAfter p r x else d.ring p' := by
  rw [← event.fires.ring p']
  have rings : b.ls.rings = f.ls.rings := by
    rw [event.same]
    dsimp only
    split <;> rfl
  rw [Device.ring, rings, Device.ring]

/-- Settles O44: the ring of the row's head by its done notice. -/
theorem doneNoticeMarksAndReleases : Obligations.DoneNoticeMarksAndReleases := by
  refine ⟨fun d p r x => ?_, fun s p r k working timer due => ?_⟩
  · obtain ⟨f, event⟩ := d.rowEvent_rowLineEvent p r x
    have ring := event.ring
    intro b
    refine ⟨fun none_ p' => ?_, fun pl enabled under => ⟨fun p' other => ?_, fun g has => ?_⟩⟩
    · refine (ring p').trans ?_
      split
      · next here =>
        rw [here, Device.ringAfter]
        rcases none_ with off | gap
        · rw [if_neg (by rw [off]; exact Bool.false_ne_true)]
        · rw [gap]
          exact ite_self _
      · rfl
    · refine (ring p').trans ?_
      split
      · next here =>
        subst here
        rw [Device.ringAfter, if_pos enabled, under, other.resolve_left (fun ne => ne rfl)]
        rfl
      · rfl
    · obtain ⟨gone, left, released, parts, all, first⟩ := (g.mark d.pc r pl).release_parts
      refine ⟨gone, left, (ring p).trans ?_, parts, all, first⟩
      rw [if_pos rfl, Device.ringAfter, if_pos enabled, under, has, Option.elim_some, Option.map_some, released]
      rfl
  · refine ⟨_, exec_timerExpiry working timer due, fun p' => ?_⟩
    obtain ⟨f, event⟩ := s.dev.rowEvent_rowLineEvent p r k.pending
    obtain ⟨f', event'⟩ := (s.dev.timerTaken p r).rowEvent_rowLineEvent p r k.pending
    rw [event.ring p']
    refine (congrArg (vget · p') (Device.settle_rings _)).trans ((event'.ring p').trans ?_)
    rfl

/-! ### Positions and the page queue (R112, R129 to R132) -/

/-- The arbiters leave the lanes alone where no window read waits at a free port and the up lane is served. -/
theorem Device.settle_cp (e : Device) (window : e.ls.service = none → e.ls.window = none)
    (lane : e.cp.upSending = none → e.cp.replies = [] ∧ e.cp.returnQ = []) : e.settle.cp = e.cp := by
  have granted : e.joinFetches.grant.cp = e.cp := by
    unfold Device.grant
    split
    · rfl
    · next free =>
      split
      · rfl
      · split
        · rfl
        · split
          · next waits => exact absurd ((window free).symm.trans waits) (by simp)
          · rfl
  rw [Device.settle, Device.upArbitrate_kept _ (by rw [granted]; exact lane), granted]

section Event
variable {d : Device} {p : PortIx} {r : RowIx} {x : Pos} {f b : Device}

theorem Device.RowEvent.whole (event : d.RowEvent p r x f b) :
    b = { d with pc := b.pc, pu := b.pu, ou := b.ou, rf := b.rf, hp := b.hp, ls := b.ls } := by
  let whole : Device → Device := fun e => { e with pc := b.pc, pu := b.pu, ou := b.ou, rf := b.rf, hp := b.hp, ls := b.ls }
  calc
    b = whole b := rfl
    _ = whole f := (congrArg whole event.same).trans rfl
    _ = whole d := (congrArg whole event.fires.same).trans rfl

theorem Device.RowEvent.pu_eq (event : d.RowEvent p r x f b) : b.pu =
    if d.jobOver p r x then { (d.rowAt p r x).pu with rows := mapRows RowPosition.calm (d.rowAt p r x).pu.rows } else (d.rowAt p r x).pu := by
  have first : f.pu = (d.rowAt p r x).pu := by rw [event.fires.same]; rfl
  rw [event.same]
  simp only [Device.calmRows, first]

theorem Device.RowEvent.rowPos (event : d.RowEvent p r x f b) (p' : PortIx) (r' : RowIx) : b.rowPos p' r' =
    let q := if (p', r') = (p, r) then { d.rowPos p' r' with position := some x } else d.rowPos p' r'
    if d.jobOver p r x then q.jobEnded else q := by
  have moved : rget (d.rowAt p r x).pu.rows p' r' =
      if (p', r') = (p, r) then { d.rowPos p' r' with position := some x } else d.rowPos p' r' := by
    refine (rget_rmod _ _ _ _ _ _).trans (if_congr ?_ rfl rfl)
    exact Prod.mk_inj.symm
  rw [Device.rowPos, event.pu_eq, ← moved]
  dsimp only
  split
  · exact rget_mapRows _ _ _ _
  · rfl

theorem Device.RowEvent.pu (event : d.RowEvent p r x f b) : b.pu = { d.pu with rows := b.pu.rows } := by
  rw [event.pu_eq]
  split <;> rfl

/-- A memory port that a row line event leaves free was free before it. -/
theorem Device.RowEvent.window_none (event : d.RowEvent p r x f b) (free : b.ls.service = none)
    (before : d.ls.service = none → d.ls.window = none) : b.ls.window = none := by
  have ls : b.ls = if d.jobOver p r x then f.ls.killFetches (fun _ _ => true) else f.ls := (congrArg Device.ls event.same).trans rfl
  have window : f.ls.window = d.ls.window := by rw [event.fires.same]
  have service : f.ls.service = d.ls.service := by rw [event.fires.same]
  rw [ls] at free ⊢
  split at free
  · next ends =>
    rw [if_pos ends]
    exact window.trans (before (service.symm.trans (Option.map_eq_none_iff.1 free)))
  · next on =>
    rw [if_neg on]
    exact window.trans (before (service.symm.trans free))

end Event

/-- Settles O42: the row line event's parts, and what an expired timer makes of its row. -/
theorem timerExpiryDelivers : Obligations.TimerExpiryDelivers := by
  refine ⟨fun s p r k working timer => ⟨fun early => ?_, fun due => ?_⟩, fun d p r x => ?_⟩
  · refine exec_still rfl rfl working ?_
    have none_ : s.dev.timerExpiry p r = s.dev := by
      rw [Device.timerExpiry, timer]
      exact if_neg (Nat.not_le.2 early)
    change s.dev.inRowOrder (s.dev.timerExpiry p r) = s.dev
    rw [none_, Device.inRowOrder_self]
  · have result := exec_timerExpiry working timer due
    obtain ⟨f, event⟩ := (s.dev.timerTaken p r).rowEvent_rowLineEvent p r k.pending
    have taken : (s.dev.modRowPos p r (fun q => { q with timer := none, taken := true })).rowLineEvent p r k.pending =
      (s.dev.timerTaken p r).rowLineEvent p r k.pending := rfl
    rw [taken]
    generalize (s.dev.timerTaken p r).rowLineEvent p r k.pending = b at event result
    have whole := event.whole
    generalize ordered : s.dev.inRowOrder b = e at result
    have same : e = { s.dev with pc := b.pc, pu := b.pu, ou := b.ou, rf := b.rf, hp := e.hp, ls := b.ls } := by
      have first : e = { b with hp := e.hp } := by rw [← ordered]; rfl
      exact first.trans ((congrArg (fun b' : Device => ({ b' with hp := e.hp } : Device)) whole).trans rfl)
    have job : b.pc.job = if (s.dev.timerTaken p r).jobOver p r k.pending then .config else s.dev.pc.job := congrArg (·.pc.job) event.same
    have cp : e.settle.cp = s.dev.cp := by
      have same_ : e.cp = s.dev.cp := (congrArg Device.cp same).trans rfl
      rw [Device.settle_cp e (fun free => ?_) (by rw [same_]; exact working.2.2.2), same_]
      have ls : e.ls = b.ls := (congrArg Device.ls same).trans rfl
      rw [ls] at free ⊢
      exact event.window_none free fun is => (working.2.2.1 is).2.2
    have pu : e.settle.pu = { s.dev.pu with rows := e.settle.pu.rows } := by
      rw [e.settle_pu.trans ((congrArg Device.pu same).trans rfl)]
      exact event.pu
    have jobAfter : e.settle.pc.job = if (s.dev.timerTaken p r).jobOver p r k.pending then .config else s.dev.pc.job :=
      (congrArg PageControl.job (e.settle_pc.trans ((congrArg Device.pc same).trans rfl))).trans job
    have pos : e.settle.rowPos p r = b.rowPos p r :=
        (congrArg (fun u : Position => rget u.rows p r) (e.settle_pu.trans ((congrArg Device.pu same).trans rfl)))
    refine ⟨{ s with dev := e.settle }, result, rfl, rfl, pos.trans ?_, pu, e.settle_tab.trans ((congrArg Device.tab same).trans rfl),
      e.settle_mem.trans ((congrArg Device.mem same).trans rfl), e.settle_ib.trans ((congrArg Device.ib same).trans rfl),
      e.settle_le.trans ((congrArg Device.le same).trans rfl),
      cp, e.settle_now.trans ((congrArg Device.now same).trans rfl)⟩
    · refine (event.rowPos p r).trans ?_
      change _ = ({ s.dev.rowPos p r with
        position := some k.pending, timer := none, taken := e.settle.pc.job != .config || s.dev.pc.job == .config } : RowPosition)
      have own : (s.dev.timerTaken p r).rowPos p r = { s.dev.rowPos p r with timer := none, taken := true } :=
        (rget_rmod _ _ _ _ _ _).trans (if_pos ⟨rfl, rfl⟩)
      rw [own, jobAfter]
      by_cases ends : (s.dev.timerTaken p r).jobOver p r k.pending
      · have stopping : s.dev.pc.job = .stopping := ends.1
        simp only [if_pos ends, stopping]
        rfl
      · have either : (s.dev.pc.job != .config || s.dev.pc.job == .config) = true := by cases s.dev.pc.job <;> rfl
        simp only [if_neg ends, either]
        rfl
  · obtain ⟨f, event⟩ := d.rowEvent_rowLineEvent p r x
    intro b finished
    refine ⟨event.whole, ?_, ?_, event.count, event.pu, event.rowPos⟩
    · refine (congrArg Device.pc event.same).trans ?_
      have report : ∀ o : Option PageRec, (o.map (fun q => ({ tag := q.tag, starved := q.starved, skipped := q.skipped } : Report))).or
          d.pc.report = match o with
            | some q => some { tag := q.tag, starved := q.starved, skipped := q.skipped }
            | none => d.pc.report := fun o => by cases o <;> rfl
      rw [report] <;> rfl
    · have ou : f.ou = { d.ou with headEvents := f.ou.headEvents, headCounts := f.ou.headCounts } := by
        conv_lhs => rw [event.fires.same]
      have headEvents : b.ou.headEvents = f.ou.headEvents :=
        (congrArg (fun e : Device => e.ou.headEvents) event.same).trans rfl
      have headCounts : b.ou.headCounts = f.ou.headCounts := (congrArg (fun e : Device => e.ou.headCounts) event.same).trans rfl
      rw [headEvents, headCounts]
      refine (congrArg Device.ou event.same).trans ?_
      exact (congrArg (fun o : OrderUnit => ({ o with
        devEvents := d.ou.devEvents ||| (if finished = [] then 0 else 128) ||| (if d.jobOver p r x then 64 else 0)
        devCounts := b.ou.devCounts } : OrderUnit)) ou).trans rfl

end Sys2Proof.Machine
end

section
/-! PROOFS. What a row line event makes of its row and of its port (R142 to R148, R169). -/

namespace Sys2Proof.Machine

/-! ### Tokens in row order (R169) -/

theorem insertToken_pairwise (t : Token) (l : List Token) (sorted : l.Pairwise (fun a b => a.row ≤ b.row)) :
    (insertToken t l).Pairwise (fun a b => a.row ≤ b.row) := by
  induction l with
  | nil => exact List.pairwise_singleton _ t
  | cons u l ih =>
    rw [List.pairwise_cons] at sorted
    rw [insertToken]
    split
    · next first =>
      refine List.pairwise_cons.2 ⟨fun a mem => ?_, List.pairwise_cons.2 sorted⟩
      rcases List.mem_cons.1 mem with here | later
      · exact here ▸ Nat.le_of_lt first
      · exact Nat.le_trans (Nat.le_of_lt first) (sorted.1 a later)
    · next behind =>
      refine List.pairwise_cons.2 ⟨fun a mem => ?_, ih sorted.2⟩
      rcases (mem_insertToken t a l).1 mem with here | later
      · exact here ▸ Nat.not_lt.1 behind
      · exact sorted.1 a later

theorem sortTokens_pairwise (l : List Token) : (sortTokens l).Pairwise (fun a b => a.row ≤ b.row) :=
  foldl_keeps (Q := List.Pairwise (fun a b : Token => a.row ≤ b.row)) _ l (fun e t sorted => insertToken_pairwise t e sorted) [] .nil

/-- The tokens of a port that raised some, in row order behind those it held. -/
theorem HeadPort.sortBehind_raised (hp : HeadPort) (held raised : List Token) (tokens : hp.tokens = held ++ raised) :
    (hp.sortBehind held.length).tokens = held ++ sortTokens raised := by
  rw [HeadPort.sortBehind, tokens, List.take_left, List.drop_left]

/-! ### Fates (R145 to R148) -/

section Fate
variable (d : Device) (p : PortIx) (r : RowIx) (x : Pos)

/-- What the fate of a line raises at its port. -/
def Device.fateTokens (d : Device) (p : PortIx) (r : RowIx) (f : LineFate) : List Token :=
  match f with
  | .untouched | .skipped | .held => []
  | .fired => [.fire r]
  | .starved => if (d.pipe p r).latch.isLoaded then [.discard r] else []

theorem Device.portAfter_tokens (f : LineFate) : (d.portAfter p r f).tokens = (d.port p).tokens ++ d.fateTokens p r f := by
  cases f with
  | starved =>
    rw [Device.portAfter, Device.fateTokens]
    split
    · rfl
    · exact (List.append_nil _).symm
  | fired => rfl
  | untouched => exact (List.append_nil _).symm
  | skipped => exact (List.append_nil _).symm
  | held => exact (List.append_nil _).symm

theorem Device.hold_of_fired (fired : d.lineFate p r x = .fired) : (d.pipe p r).hold = none := by
  unfold Device.lineFate at fired
  dsimp only at fired
  split at fired
  · cases fired
  · split at fired
    · cases fired
    · next free => exact Option.not_isSome_iff_eq_none.1 free

theorem Device.rowDecided_hold : (d.rowDecided p r x).hold = if d.lineFate p r x = .held then some x else (d.pipe p r).hold := by
  have kept : (d.rowDecided p r x).hold = ((d.pipe p r).decided d.now x (d.lineFate p r x)).hold := by
    rw [Device.rowDecided]
    split <;> rfl
  rw [kept]
  cases fate : d.lineFate p r x with
  | fired => exact (d.hold_of_fired p r x fate).symm
  | starved =>
    rw [Pipeline.decided]
    split <;> rfl
  | _ => rfl

theorem Device.rowDecided_lastFire : (d.rowDecided p r x).lastFire = if d.lineFate p r x = .fired then d.now else (d.pipe p r).lastFire := by
  have kept : (d.rowDecided p r x).lastFire = ((d.pipe p r).decided d.now x (d.lineFate p r x)).lastFire := by
    rw [Device.rowDecided]
    split <;> rfl
  rw [kept]
  cases d.lineFate p r x with
  | starved =>
    rw [Pipeline.decided]
    split <;> rfl
  | _ => rfl

theorem Pipeline.jobEnded_hold (q : Pipeline) : (q.jobEnded true).hold = q.hold ∧ (q.jobEnded true).lastFire = q.lastFire := by
  rw [← Pipeline.endJob_eq_jobEnded, Pipeline.endJob]
  split
  · exact ⟨rfl, rfl⟩
  · next free =>
    rw [Bool.true_and, Option.not_isSome_iff_eq_none] at free
    exact ⟨free.symm, rfl⟩

end Fate

/-! ### The parts of the event -/

section Event
variable {d : Device} {p : PortIx} {r : RowIx} {x : Pos} {f b : Device}

theorem Device.RowEvent.headCounts (event : d.RowEvent p r x f b) : b.ou.headCounts = f.ou.headCounts :=
  (congrArg (fun e : Device => e.ou.headCounts) event.same).trans rfl

theorem Device.RowEvent.headEvents (event : d.RowEvent p r x f b) : b.ou.headEvents = f.ou.headEvents :=
  (congrArg (fun e : Device => e.ou.headEvents) event.same).trans rfl

theorem Device.Fires.row (fires : d.Fires p r x f) (active : d.jobActive = true) (r' : RowIx) : f.pipe p r' =
    if r' = r ∧ d.printing p r = true then (d.rowDecided p r x).prepared (d.head p) d.pc (d.ringAfter p r x) x else d.pipe p r' := by
  by_cases here : r' = r
  · subst here
    cases prints : d.printing p r' with
    | true => exact (fires.made active prints).trans (if_pos ⟨rfl, rfl⟩).symm
    | false =>
      rw [if_neg fun is => Bool.false_ne_true is.2, Device.pipe, (fires.still prints).1]
      rfl
  · rw [if_neg (here ·.1), fires.pipe p r' (here ·.2)]

theorem Device.Fires.frame (fires : d.Fires p r x f) (active : d.jobActive = true) : f.port p =
    match (if d.printing p r then ((d.rowDecided p r x).filled (d.head p) d.pc (d.ringAfter p r x) x).toHand else none) with
      | some (y, codes) => (d.portDecided p r x).takeFrame (d.head p) r y codes
      | none => d.portDecided p r x := by
  cases prints : d.printing p r with
  | true =>
    rw [if_pos rfl, fires.hands active prints]
    cases ((d.rowDecided p r x).filled (d.head p) d.pc (d.ringAfter p r x) x).toHand with
    | none => rfl
    | some y => rfl
  | false =>
    rw [if_neg Bool.false_ne_true, Device.port, (fires.still prints).2]
    exact (d.portDecided_idle p r x prints).symm

theorem Device.RowEvent.hold (event : d.RowEvent p r x f b) : (b.pipe p r).hold = (d.rowDecided p r x).hold := by
  rw [event.pipe, ← event.fires.hold]
  split
  · exact (Pipeline.jobEnded_hold _).1
  · rfl

theorem Device.RowEvent.lastFire (event : d.RowEvent p r x f b) : (b.pipe p r).lastFire = (d.rowDecided p r x).lastFire := by
  rw [event.pipe, ← event.fires.lastFire]
  split
  · exact (Pipeline.jobEnded_hold _).2
  · rfl

/-- The tokens raised: those of the row's fate, and those of the job's end behind them. -/
theorem Device.RowEvent.tokens (event : d.RowEvent p r x f b) (p' : PortIx) : ∃ more, (b.port p').tokens =
    (d.port p').tokens ++ ((if p' = p then d.fateTokens p r (d.lineFate p r x) else []) ++ more) := by
  have first : (f.port p').tokens = (d.port p').tokens ++ (if p' = p then d.fateTokens p r (d.lineFate p r x) else []) := by
    by_cases here : p' = p
    · subst here
      rw [if_pos rfl, event.fires.tokens, d.portDecided_eq, d.portAfter_tokens]
    · rw [if_neg here, event.fires.port p' here, List.append_nil]
  rw [event.port]
  split
  · exact ⟨_, (congrArg (· ++ _) first).trans (List.append_assoc _ _ _)⟩
  · exact ⟨[], by rw [first, List.append_nil]⟩

end Event

/-- Settles O43: crossings by job and taken mark, the event's parts, and what an expired timer's event leaves. -/
theorem rowLineEventDecides : Obligations.RowLineEventDecides := by
  refine ⟨fun d p r x => ⟨fun config => ?_, fun running taken => ?_, fun running untaken => ?_⟩, fun d p r x running => ?_,
    fun s p r k working timer due => ?_⟩
  · exact if_pos (by simp [Device.jobActive, config])
  · have active : (!d.jobActive) = false := by simp [Device.jobActive, running]
    rw [Device.cross, active, taken]
    rfl
  · have active : (!d.jobActive) = false := by simp [Device.jobActive, running]
    rw [Device.cross, active, untaken]
    rfl
  · obtain ⟨f, event⟩ := d.rowEvent_rowLineEvent p r x
    have active : d.jobActive = true := bne_iff_ne.2 running
    have fires := event.fires
    have ring : (d.rowLineEvent p r x).ring p = d.ringAfter p r x := (event.ring p).trans (if_pos rfl)
    intro b fate decided hands row port
    have rows : ∀ p' r', f.pipe p' r' = if p' = p then row r' else d.pipe p' r' := fun p' r' => by
      by_cases here : p' = p
      · subst here
        rw [if_pos rfl, fires.row active r']
        change _ = if r' = r ∧ d.printing p' r = true then decided.prepared (d.head p') d.pc (b.ring p') x else d.pipe p' r'
        rw [ring]
      · rw [if_neg here, fires.pipe p' r' (here ·.1)]
    have ports : ∀ p', f.port p' = if p' = p then port else d.port p' := fun p' => by
      by_cases here : p' = p
      · subst here
        rw [if_pos rfl, fires.frame active, ← ring] <;> rfl
      · rw [if_neg here, fires.port p' here]
    refine ⟨headCounted_of_counts fires.count event.headCounts, fun p' => ?_, fun p' r' => ?_, fun p' => ?_, fun g y pl has prints on ne is => ?_⟩
    · exact (congrArg (vget · p') event.headEvents).trans (fires.event p')
    · rw [← rows]
      exact event.pipe p' r'
    · refine (event.port p').trans ?_
      have all : f.pipe p' = if p' = p then row else d.pipe p' := funext fun r' => (rows p' r').trans (by split <;> rfl)
      rw [← ports, ← all]
    · have asked := fires.asks prints g y pl (ring.symm.trans has) ne (by
        have := event.pipe p r
        rw [if_neg on] at this
        rw [← this]
        exact is)
      have ls : b.ls = f.ls := (congrArg Device.ls event.same).trans (if_neg on)
      obtain ⟨fetch, i, slot, mem, rest⟩ := asked
      exact ⟨fetch, i, slot, .inl (by rw [ls]; exact mem), rest⟩
  · have result := exec_timerExpiry working timer due
    let d := s.dev.timerTaken p r
    obtain ⟨f, event⟩ := d.rowEvent_rowLineEvent p r k.pending
    have fires := event.fires
    generalize d.rowLineEvent p r k.pending = b at event result
    have ordered : ∀ p', (s.dev.inRowOrder b).port p' = (b.port p').sortBehind (s.dev.port p').tokens.length :=
      fun p' => s.dev.inRowOrder_port b p'
    have rowsKept : (s.dev.inRowOrder b).rf = b.rf := rfl
    have unit : (s.dev.inRowOrder b).ou = b.ou := rfl
    have job : (s.dev.inRowOrder b).pc = b.pc := rfl
    have still : b.hp = s.dev.hp → (s.dev.inRowOrder b).hp = s.dev.hp := fun same => by
      have self := congrArg Device.hp s.dev.inRowOrder_self
      refine Eq.trans ?_ self
      rw [Device.inRowOrder, Device.inRowOrder]
      refine congrArg Vector.ofFn (funext fun p' => ?_)
      exact congrArg (HeadPort.sortBehind _) (congrArg (vget · p') same)
    generalize s.dev.inRowOrder b = e at result ordered rowsKept unit job still
    have ou : e.settle.ou.headCounts = b.ou.headCounts ∧ e.settle.ou.headEvents = b.ou.headEvents := by
      have kept := congrArg Device.ou (Device.settle_eq e)
      exact ⟨(congrArg (·.headCounts) kept).trans (congrArg (·.headCounts) unit), (congrArg (·.headEvents) kept).trans
        (congrArg (·.headEvents) unit)⟩
    have pipe : ∀ p' r', e.settle.pipe p' r' = b.pipe p' r' := fun p' r' => congrArg (rget · p' r') (e.settle_rf.trans rowsKept)
    have port : ∀ p', e.settle.port p' = e.port p' := fun p' => congrArg (vget · p') e.settle_hp
    refine ⟨{ s with dev := e.settle }, result, ?_⟩
    intro q x fate
    have tokens := event.tokens
    have sorted : ∀ p', ∃ more, (e.settle.port p').tokens = (s.dev.port p').tokens ++ sortTokens
        ((if p' = p then d.fateTokens p r (s.dev.lineFate p r x) else []) ++ more) := fun p' => by
      obtain ⟨more, is⟩ := tokens p'
      exact ⟨more, by
        rw [port, ordered]
        exact HeadPort.sortBehind_raised _ _ _ is⟩
    have raised : ∀ p', ∃ more, (e.settle.port p').tokens.drop (s.dev.port p').tokens.length = sortTokens
        ((if p' = p then d.fateTokens p r (s.dev.lineFate p r x) else []) ++ more) := fun p' => by
      obtain ⟨more, is⟩ := sorted p'
      exact ⟨more, by rw [is, List.drop_left]⟩
    have mine : ∀ t ∈ d.fateTokens p r (s.dev.lineFate p r x), t ∈ (e.settle.port p).tokens.drop (s.dev.port p).tokens.length :=
      fun t mem => by
        obtain ⟨more, is⟩ := raised p
        rw [is, mem_sortTokens, if_pos rfl]
        exact List.mem_append_left _ mem
    refine ⟨headCounted_of_counts fires.count (ou.1.trans event.headCounts), fun p' => ?_, ?_, ?_, fun p' => ?_, fun fired => ?_,
      fun starved loaded => ?_, fun p' => ?_, fun silent same => ?_⟩
    · exact (congrArg (vget · p') (ou.2.trans event.headEvents)).trans (fires.event p')
    · refine (congrArg Pipeline.hold (pipe p r)).trans (event.hold.trans (d.rowDecided_hold p r x))
    · refine (congrArg Pipeline.lastFire (pipe p r)).trans (event.lastFire.trans (d.rowDecided_lastFire p r x))
    · obtain ⟨more, is⟩ := sorted p'
      exact ⟨_, is.symm⟩
    · refine mine _ ?_
      rw [show s.dev.lineFate p r x = .fired from fired]
      exact List.mem_singleton_self _
    · refine mine _ ?_
      rw [show s.dev.lineFate p r x = .starved from starved, Device.fateTokens,
        if_pos (show (d.pipe p r).latch.isLoaded = true from loaded)]
      exact List.mem_singleton_self _
    · obtain ⟨more, is⟩ := raised p'
      change ((e.settle.port p').tokens.drop (s.dev.port p').tokens.length).Pairwise _
      rw [is]
      exact sortTokens_pairwise _
    · have on : ¬ d.jobOver p r x := fun ends => by
        have after : e.settle.pc.job = .config :=
          (congrArg PageControl.job (e.settle_pc.trans job)).trans ((congrArg (fun e : Device => e.pc.job) event.same).trans (if_pos ends))
        have stopping : s.dev.pc.job = .stopping := ends.1
        rw [stopping] at same
        exact absurd (after.symm.trans same) (by decide)
      have kept := event.still on
      have idle := fires.still silent
      exact ⟨e.settle_rf.trans (rowsKept.trans (kept.1.trans idle.1)), e.settle_hp.trans (still (kept.2.trans idle.2))⟩

end Sys2Proof.Machine
end

section
/-! PROOFS. Forward edges: the advance, the crossings and the interpolation timers (R101, R103, R104, R107 to R113). -/

namespace Sys2Proof.Machine

/-! ### The Position Unit at a forward edge (R103, R104, R110) -/

/-- Ticks since the reference edge, where there is one. -/
def Position.sinceReference (u : Position) (now : Nat) : Option Nat := u.reference.map (fun t => min (now - t) 1048575)

/-- The Position Unit after a forward edge of ratio `R` at tick `now`. -/
def Position.movedBy (u : Position) (R now : Nat) : Position :=
  { u with
    debt := u.debt - R
    phase := if 65536 ≤ u.phase + (R - u.debt) then u.phase + (R - u.debt) - 65536 else u.phase + (R - u.debt)
    count := if 65536 ≤ u.phase + (R - u.debt) then u.count + 1 else u.count
    reference := if u.debt = 0 then some now else none
    interval := if u.debt = 0 then (u.sinceReference now).getD u.interval else u.interval
    intervalValid := u.debt == 0 && (u.sinceReference now).any (fun i => decide (i < 1048575)) }

theorem edgeAdvance_eq (R debt : Nat) : edgeAdvance R debt = (R - debt, debt - R) := by
  rw [edgeAdvance]
  split
  · next repaid => rw [Nat.sub_eq_zero_of_le repaid]
  · next short => rw [Nat.sub_eq_zero_of_le (Nat.le_of_not_le short)]

theorem Position.measure_eq (u : Position) (now : Nat) : u.measure now = { u with
    reference := some now
    interval := (u.sinceReference now).getD u.interval
    intervalValid := (u.sinceReference now).any (fun i => decide (i < 1048575)) } := by
  unfold Position.measure Position.sinceReference
  cases u.reference <;> rfl

/-- Whether the whole of the ratio is the advance. -/
theorem full_iff {R debt : Nat} (some_ : R ≠ 0) : R - debt = R ↔ debt = 0 := by omega

theorem Position.moved_eq (u : Position) {R : Nat} (some_ : R ≠ 0) (now : Nat) :
    let adv := edgeAdvance R u.debt
    let v : Position := { u with debt := adv.2 }
    (if adv.1 = R then v.measure now else v.loseReference).advance adv.1 = u.movedBy R now := by
  have advance : ∀ (v : Position) (A : Nat), v.advance A = { v with
      phase := if 65536 ≤ v.phase + A then v.phase + A - 65536 else v.phase + A
      count := if 65536 ≤ v.phase + A then v.count + 1 else v.count } := fun v A => by
    rw [Position.advance, Config.lineUnits]
    by_cases wraps : 65536 ≤ v.phase + A
    · simp only [if_pos wraps]
    · simp only [if_neg wraps]
  simp only [edgeAdvance_eq, full_iff some_, Position.measure_eq, advance]
  by_cases free : u.debt = 0
  · simp only [if_pos free, Position.movedBy, free, beq_self_eq_true, Bool.true_and]
    rfl
  · have owes : (u.debt == 0) = false := beq_eq_false_iff_ne.2 free
    simp only [if_neg free, Position.movedBy, owes, Bool.false_and]
    rfl

/-! ### Crossings (R107, R108) -/

/-- The image position at which an advance `A` from phase `phase` and line count `count` crosses a row's threshold. -/
def RowPosition.crossingAt (q : RowPosition) (count : Pos) (phase A : Nat) : Option Pos :=
  q.crossing.bind (fun c =>
    if phase < c.threshold ∧ c.threshold ≤ phase + A then
      some (count + BitVec.ofNat 32 (c.threshold / 65536) - BitVec.ofNat 32 c.delay)
    else if phase < c.threshold + 65536 ∧ c.threshold + 65536 ≤ phase + A then
      some (count + BitVec.ofNat 32 (c.threshold / 65536 + 1) - BitVec.ofNat 32 c.delay)
    else none)

theorem RowPosition.crossOn_eq (q : RowPosition) (count : Pos) (phase A : Nat) : q.crossOn count phase A = q.crossingAt count phase A := by
  rw [RowPosition.crossOn, RowPosition.crossingAt]
  refine congrArg (Option.bind q.crossing) (funext fun c => ?_)
  have point : crossingPoint c.threshold phase A = if phase < c.threshold ∧ c.threshold ≤ phase + A then some c.threshold
    else if phase < c.threshold + 65536 ∧ c.threshold + 65536 ≤ phase + A then some (c.threshold + 65536) else none := rfl
  have beyond : imagePosition count (c.threshold + 65536) c.delay =
      count + BitVec.ofNat 32 (c.threshold / 65536 + 1) - BitVec.ofNat 32 c.delay := by
    rw [imagePosition, Config.lineUnits, Nat.add_div_right _ (by decide)]
  rw [point]
  by_cases near : phase < c.threshold ∧ c.threshold ≤ phase + A
  · rw [if_pos near, if_pos near]
    rfl
  · rw [if_neg near, if_neg near]
    by_cases far : phase < c.threshold + 65536 ∧ c.threshold + 65536 ≤ phase + A
    · rw [if_pos far, if_pos far, Option.map_some, beyond]
    · rw [if_neg far, if_neg far]
      rfl

/-- The rows that an edge's advance takes over their thresholds, crossed in port and row order. -/
def Device.crossRows (crossing : PortIx → RowIx → Option Pos) (d : Device) : Device :=
  allPortRows.foldl (fun d k => match crossing k.1 k.2 with
    | some x => d.cross k.1 k.2 x
    | none => d) d

theorem Device.crossings_foldl (a : Device) (count : Pos) (phase A : Nat) (d : Device) :
    (a.crossings count phase A).foldl (fun e c => e.cross c.1.1 c.1.2 c.2) d =
      d.crossRows (fun p r => (a.rowPos p r).crossingAt count phase A) := by
  rw [Device.crossings, List.foldl_filterMap, Device.crossRows]
  refine congrArg (fun f => allPortRows.foldl f d) (funext fun e => funext fun k => ?_)
  rw [RowPosition.crossOn_eq]
  cases (a.rowPos k.1 k.2).crossingAt count phase A <;> rfl

/-! ### The edge's events (R101, R104; log 18) -/

/-- The global line event of an edge that ends a line, while the job runs. -/
def Device.lineIf (wraps : Prop) [Decidable wraps] (d : Device) : Device := if wraps ∧ d.pc.job ≠ .config then d.globalLineEvent else d

/-- The events of an edge in the order given. -/
def Device.eventsIn (order : EdgeOrder) (wraps : Prop) [Decidable wraps] (crossing : PortIx → RowIx → Option Pos) (d : Device) : Device :=
  match order with
  | .lineFirst => (d.lineIf wraps).crossRows crossing
  | .rowsFirst => (d.crossRows crossing).lineIf wraps

theorem Device.edgeEvents_eq (d : Device) (some_ : d.tab.job.pitchRatio ≠ 0) (order : EdgeOrder) :
    let A := d.tab.job.pitchRatio - d.pu.debt
    let events := ({ d with pu := d.pu.movedBy d.tab.job.pitchRatio d.now } : Device).eventsIn order (65536 ≤ d.pu.phase + A)
      (fun p r => (d.rowPos p r).crossingAt d.pu.count d.pu.phase A)
    d.edgeEvents order = if d.pu.debt = 0 then events.armTimers else events := by
  have moved := d.pu.moved_eq some_ d.now
  have crossed := d.crossings_foldl d.pu.count d.pu.phase (d.tab.job.pitchRatio - d.pu.debt)
  have line : ∀ e : Device, (if decide (65536 ≤ d.pu.phase + (d.tab.job.pitchRatio - d.pu.debt)) && e.jobActive then e.globalLineEvent else e) =
      e.lineIf (65536 ≤ d.pu.phase + (d.tab.job.pitchRatio - d.pu.debt)) := fun e =>
    if_congr (by simp [Device.jobActive]) rfl rfl
  have advance := edgeAdvance_eq d.tab.job.pitchRatio d.pu.debt
  dsimp only at moved ⊢
  unfold Device.edgeEvents
  simp only [moved]
  simp only [advance, full_iff some_, crossed, Config.lineUnits, line]
  cases order <;> rfl

/-! ### What the events leave (R101) -/

/-- `b` follows from `a` by events that, while the job runs on, leave the rows alone that `K` does not pick. -/
structure Device.Passes (K : PortIx → RowIx → Prop) (a b : Device) : Prop where
  quiet : a.Quiet b
  pu : b.pu = { a.pu with rows := b.pu.rows }
  runs : b.pc.job ≠ .config → a.pc.job ≠ .config ∧ ∀ p r, ¬ K p r → b.rowPos p r = a.rowPos p r

namespace Device.Passes
variable {K L : PortIx → RowIx → Prop} {a b c : Device}

theorem refl (a : Device) : a.Passes K a := ⟨.refl a, rfl, fun runs => ⟨runs, fun _ _ _ => rfl⟩⟩

theorem trans (h : a.Passes K b) (k : b.Passes K c) : a.Passes K c :=
  ⟨h.quiet.trans k.quiet, by rw [k.pu, h.pu], fun runs =>
    ⟨(h.runs (k.runs runs).1).1, fun p r out => ((k.runs runs).2 p r out).trans ((h.runs (k.runs runs).1).2 p r out)⟩⟩

theorem mono (h : a.Passes K b) (sub : ∀ p r, K p r → L p r) : a.Passes L b :=
  ⟨h.quiet, h.pu, fun runs => ⟨(h.runs runs).1, fun p r out => (h.runs runs).2 p r fun is => out (sub p r is)⟩⟩

theorem foldl {β : Type} (f : Device → β → Device) (hf : ∀ d x, Device.Passes K d (f d x)) (l : List β) (d : Device) :
    d.Passes K (l.foldl f d) :=
  foldl_keeps (Q := d.Passes K) f l (fun e x passes => passes.trans (hf e x)) d (.refl d)

end Device.Passes

section Passing
variable (d : Device) (p : PortIx) (r : RowIx) (x : Pos)

theorem Device.passes_modRowPos (f : RowPosition → RowPosition) : d.Passes (fun p' r' => p' = p ∧ r' = r) (d.modRowPos p r f) :=
  ⟨d.quiet_modRowPos p r f, rfl, fun runs => ⟨runs, fun _ _ out => (rget_rmod _ _ _ _ _ _).trans (if_neg out)⟩⟩

theorem Device.rowPos_modRowPos_same (f : RowPosition → RowPosition) : (d.modRowPos p r f).rowPos p r = f (d.rowPos p r) :=
  (rget_rmod _ _ _ _ _ _).trans (if_pos ⟨rfl, rfl⟩)

theorem Device.rowLineEvent_rowPos (runs : (d.rowLineEvent p r x).pc.job ≠ .config) (p' : PortIx) (r' : RowIx) :
    (d.rowLineEvent p r x).rowPos p' r' = if (p', r') = (p, r) then { d.rowPos p' r' with position := some x } else d.rowPos p' r' := by
  obtain ⟨f, event⟩ := d.rowEvent_rowLineEvent p r x
  have on : ¬ d.jobOver p r x := fun ends => runs ((congrArg (fun e : Device => e.pc.job) event.same).trans (if_pos ends))
  exact (event.rowPos p' r').trans (if_neg on)

theorem Device.passes_rowLineEvent : d.Passes (fun p' r' => p' = p ∧ r' = r) (d.rowLineEvent p r x) := by
  refine ⟨d.quiet_rowLineEvent p r x, ?_, fun runs => ⟨fun config => runs ?_, fun p' r' out => ?_⟩⟩
  · obtain ⟨f, event⟩ := d.rowEvent_rowLineEvent p r x
    exact event.pu
  · obtain ⟨f, event⟩ := d.rowEvent_rowLineEvent p r x
    refine (congrArg (fun e : Device => e.pc.job) event.same).trans ?_
    exact (congrArg (ite _ _) config).trans (ite_self _)
  · rw [d.rowLineEvent_rowPos p r x runs]
    exact if_neg fun eq => out (Prod.mk_inj.1 eq)

theorem Device.passes_cross : d.Passes (fun p' r' => p' = p ∧ r' = r) (d.cross p r x) := by
  unfold Device.cross
  split
  · exact .refl d
  · split
    · exact d.passes_modRowPos p r _
    · exact (d.passes_modRowPos p r _).trans (Device.passes_rowLineEvent _ p r x)

theorem Device.passes_timerExpiry : d.Passes (fun p' r' => p' = p ∧ r' = r) (d.timerExpiry p r) := by
  unfold Device.timerExpiry
  split
  · split
    · exact (d.passes_modRowPos p r _).trans (Device.passes_rowLineEvent _ p r _)
    · exact .refl d
  · exact .refl d

theorem Device.passes_armRow : d.Passes (fun p' r' => p' = p ∧ r' = r) (d.armRow p r) := by
  unfold Device.armRow
  split
  · exact (d.passes_modRowPos p r _).trans (Device.passes_timerExpiry _ p r)
  · exact .refl d

theorem Device.passes_globalLineEvent {K : PortIx → RowIx → Prop} : d.Passes K d.globalLineEvent := by
  have judged := d.globalLineEvent_judged
  have kept : d.globalLineEvent.pu = d.pu ∧ d.globalLineEvent.pc.job = d.pc.job := by
    unfold pitchJudged at judged
    cases anchor : d.pc.anchor with
    | none =>
      simp only [anchor] at judged
      rw [judged]
      exact ⟨rfl, rfl⟩
    | some at_ =>
      simp only [anchor] at judged
      obtain ⟨stays, falls⟩ := judged
      by_cases fall : d.tab.job.source = .pitch ∧ d.pc.job = .run ∧
          d.pu.count = at_ + BitVec.ofNat 32 d.tab.job.pitch - BitVec.ofNat 32 d.tab.job.offset
      · have outcome := falls fall
        cases page : d.pc.queue.find? PageRec.isAnnounced with
        | none =>
          simp only [page] at outcome
          rw [outcome.1]
          exact ⟨rfl, rfl⟩
        | some q =>
          simp only [page] at outcome
          by_cases early : d.early d.triggerBase
          · rw [(outcome.1 early).1]
            exact ⟨rfl, rfl⟩
          · obtain ⟨⟨_, _, _, _, pu, _⟩, _, _, pc, _⟩ := outcome.2 early
            exact ⟨pu, by rw [pc]⟩
      · rw [stays fall]
        exact ⟨rfl, rfl⟩
  refine ⟨d.quiet_globalLineEvent, by rw [kept.1], fun runs => ⟨kept.2 ▸ runs, fun p r _ => ?_⟩⟩
  rw [Device.rowPos, kept.1, Device.rowPos]

/-- The row of a crossing, while the job runs on (R113). -/
theorem Device.cross_rowPos (runs : (d.cross p r x).pc.job ≠ .config) : (d.cross p r x).rowPos p r =
    { d.rowPos p r with
      position := if (d.rowPos p r).taken = false then some x else (d.rowPos p r).position
      timer := if (d.rowPos p r).taken = false then none else (d.rowPos p r).timer
      taken := false } := by
  have ran := ((d.passes_cross p r x).runs runs).1
  have active : (!d.jobActive) = false := by simp [Device.jobActive, ran]
  have changed : ∀ f : RowPosition → RowPosition, (d.modRowPos p r f).rowPos p r = f (d.rowPos p r) := fun f => d.rowPos_modRowPos_same p r f
  cases taken : (d.rowPos p r).taken with
  | true =>
    have cross : d.cross p r x = d.modRowPos p r (fun q => { q with taken := false }) := by
      rw [Device.cross, active, taken]
      rfl
    rw [cross, changed]
    rfl
  | false =>
    have cross : d.cross p r x = (d.modRowPos p r (fun q => { q with timer := none })).rowLineEvent p r x := by
      rw [Device.cross, active, taken]
      rfl
    rw [cross] at runs ⊢
    rw [Device.rowLineEvent_rowPos _ p r x runs, if_pos rfl, changed]
    simp only [if_true, ← taken]

/-- The timer that an edge arms for a row, at distance `dist` from its next crossing (R111). -/
def RowPosition.timerFor (q : RowPosition) (u : Position) (R now : Nat) (interpolation : Bool) : Option RowTimer :=
  if u.intervalValid = true ∧ interpolation = true ∧ q.timer = none ∧ q.taken = false then q.crossing.bind (fun c =>
    let dist := if u.phase < c.threshold then c.threshold - u.phase else c.threshold + 65536 - u.phase
    if dist ≤ R then some
      { expiry := now + dist * u.interval / R
        pending := u.count + BitVec.ofNat 32 ((u.phase + dist) / 65536) - BitVec.ofNat 32 c.delay }
    else none) else none

/-- A row with the timer armed for it, which expires at once where it is armed for no time away (R111, R112). -/
def RowPosition.armedWith (q : RowPosition) (now : Nat) (armed : Option RowTimer) : RowPosition :=
  match armed with
  | some k => if k.expiry ≤ now then { q with position := some k.pending, timer := none, taken := true } else { q with timer := some k }
  | none => q

theorem RowPosition.arm_eq (q : RowPosition) (u : Position) (R now : Nat) (valid : u.intervalValid = true) (free : q.timer = none) :
    q.arm now R u.interval u.phase u.count = match q.timerFor u R now true with
      | some k => { q with timer := some k }
      | none => q := by
  cases taken : q.taken with
  | true =>
    have none_ : q.timerFor u R now true = none := if_neg fun is => by simp [taken] at is
    rw [none_]
    cases crossing : q.crossing with
    | none => simp only [RowPosition.arm, crossing]
    | some c => simp only [RowPosition.arm, crossing, free, taken]
  | false =>
    rw [RowPosition.timerFor, if_pos ⟨valid, rfl, free, taken⟩]
    cases crossing : q.crossing with
    | none => simp only [RowPosition.arm, crossing, Option.bind_none]
    | some c =>
      simp only [RowPosition.arm, crossing, free, taken, Option.bind_some, crossingDistance, imagePosition, Config.lineUnits]
      generalize (if u.phase < c.threshold then c.threshold - u.phase else c.threshold + 65536 - u.phase) = dist
      by_cases within : dist ≤ R
      · simp only [if_pos within]
      · simp only [if_neg within]

/-- The row of an arming, while the job runs on (R111, R112). -/
theorem Device.armRow_rowPos (runs : (d.armRow p r).pc.job ≠ .config) : (d.armRow p r).rowPos p r =
    (d.rowPos p r).armedWith d.now ((d.rowPos p r).timerFor d.pu d.tab.job.pitchRatio d.now d.tab.job.interpolation) := by
  have ran := ((d.passes_armRow p r).runs runs).1
  have active : d.jobActive = true := bne_iff_ne.2 ran
  by_cases guard : d.pu.intervalValid = true ∧ d.tab.job.interpolation = true ∧ (d.rowPos p r).timer = none
  · obtain ⟨valid, interpolation, free⟩ := guard
    let e := d.modRowPos p r (fun q => q.arm d.now d.tab.job.pitchRatio d.pu.interval d.pu.phase d.pu.count)
    have arms : d.armRow p r = e.timerExpiry p r := by
      rw [Device.armRow, active, valid, interpolation, free]
      rfl
    have row : e.rowPos p r = (d.rowPos p r).arm d.now d.tab.job.pitchRatio d.pu.interval d.pu.phase d.pu.count :=
      d.rowPos_modRowPos_same p r _
    rw [RowPosition.arm_eq _ d.pu _ _ valid free] at row
    rw [interpolation]
    rw [arms] at runs ⊢
    cases armed : (d.rowPos p r).timerFor d.pu d.tab.job.pitchRatio d.now true with
    | none =>
      simp only [armed] at row
      have still : e.timerExpiry p r = e := by
        rw [Device.timerExpiry, row, free]
      rw [still, row]
      rfl
    | some k =>
      simp only [armed] at row
      have timer : (e.rowPos p r).timer = some k := by rw [row]
      by_cases due : k.expiry ≤ d.now
      · rw [Device.timerExpiry_due timer due] at runs ⊢
        rw [Device.rowLineEvent_rowPos _ p r _ runs, if_pos rfl, Device.timerTaken, Device.rowPos_modRowPos_same, row, RowPosition.armedWith,
          if_pos due]
      · have still : e.timerExpiry p r = e := by
          rw [Device.timerExpiry, timer]
          exact if_neg due
        rw [still, row, RowPosition.armedWith, if_neg due]
  · have none_ : (d.rowPos p r).timerFor d.pu d.tab.job.pitchRatio d.now d.tab.job.interpolation = none :=
      if_neg fun is => guard ⟨is.1, is.2.1, is.2.2.1⟩
    have still : d.armRow p r = d := by
      refine if_neg fun is => guard ?_
      simp only [Bool.and_eq_true, Option.isNone_iff_eq_none] at is
      exact ⟨is.1.1.2, is.1.2, is.2⟩
    rw [still, none_]
    rfl

end Passing

end Sys2Proof.Machine
end

section
/-! PROOFS. The forward edge as a whole (R101, R103, R104, R107 to R113, R127, R169). -/

namespace Sys2Proof.Machine

/-- A row after an edge whose advance crosses its threshold at image position `own`, if it does (R113). -/
def RowPosition.crossedBy (own : Option Pos) (q : RowPosition) : RowPosition :=
  { q with
    position := if own.isSome ∧ q.taken = false then own else q.position
    timer := if own.isSome ∧ q.taken = false then none else q.timer
    taken := if own.isSome then false else q.taken }

theorem RowPosition.crossedBy_none (q : RowPosition) : q.crossedBy none = q := by
  simp [RowPosition.crossedBy]

/-- The places other than one row's. -/
abbrev elsewhere (p : PortIx) (r : RowIx) : PortIx → RowIx → Prop := fun p' r' => (p', r') ≠ (p, r)

theorem elsewhere_of {p p' q : PortIx} {r r' t : RowIx} (ne : (p, r) ≠ (p', r')) (is : q = p' ∧ t = r') : elsewhere p r q t :=
  fun eq => ne (is.1 ▸ is.2 ▸ eq).symm

section Rows
variable (d : Device) (p : PortIx) (r : RowIx)

/-- A step of the crossings. -/
def Device.crossAt (crossing : PortIx → RowIx → Option Pos) (d : Device) (p : PortIx) (r : RowIx) : Device :=
  (crossing p r).elim d (d.cross p r)

theorem Device.crossRows_eq (crossing : PortIx → RowIx → Option Pos) :
    d.crossRows crossing = allPortRows.foldl (fun d k => d.crossAt crossing k.1 k.2) d := by
  rw [Device.crossRows]
  refine congrArg (fun f => allPortRows.foldl f d) (funext fun e => funext fun k => ?_)
  rw [Device.crossAt]
  cases crossing k.1 k.2 <;> rfl

theorem Device.passes_crossAt (crossing : PortIx → RowIx → Option Pos) :
    d.Passes (fun p' r' => p' = p ∧ r' = r) (d.crossAt crossing p r) := by
  rw [Device.crossAt]
  cases crossing p r with
  | none => exact .refl d
  | some x => exact d.passes_cross p r x

theorem Device.crossAt_rowPos (crossing : PortIx → RowIx → Option Pos) (runs : (d.crossAt crossing p r).pc.job ≠ .config) :
    (d.crossAt crossing p r).rowPos p r = (d.rowPos p r).crossedBy (crossing p r) := by
  rw [Device.crossAt] at runs ⊢
  cases own : crossing p r with
  | none => exact (RowPosition.crossedBy_none _).symm
  | some x =>
    rw [own] at runs
    exact (d.cross_rowPos p r x runs).trans (by simp [RowPosition.crossedBy])

theorem Device.passes_crossRows (crossing : PortIx → RowIx → Option Pos) : d.Passes (fun _ _ => True) (d.crossRows crossing) := by
  rw [Device.crossRows_eq]
  exact .foldl (fun (e : Device) (k : PortIx × RowIx) => e.crossAt crossing k.1 k.2)
    (fun e k => (e.passes_crossAt k.1 k.2 crossing).mono fun _ _ _ => trivial) _ d

theorem Device.crossRows_rowPos (crossing : PortIx → RowIx → Option Pos) (runs : (d.crossRows crossing).pc.job ≠ .config) :
    (d.crossRows crossing).rowPos p r = (d.rowPos p r).crossedBy (crossing p r) := by
  rw [Device.crossRows_eq] at runs ⊢
  obtain ⟨e, before, after⟩ := foldl_split (S := Device.Passes (elsewhere p r)) .refl .trans
    (fun d (k : PortIx × RowIx) => d.crossAt crossing k.1 k.2) (p, r)
    (fun e k ne => (e.passes_crossAt k.1 k.2 crossing).mono fun _ _ is => elsewhere_of ne is) allPortRows allPortRows_nodup
    (mem_allPortRows p r) d
  obtain ⟨running, rest⟩ := after.runs runs
  obtain ⟨begun, first⟩ := before.runs ((e.passes_crossAt p r crossing).runs running).1
  rw [rest p r (fun ne => ne rfl), e.crossAt_rowPos p r crossing running, first p r (fun ne => ne rfl)]

theorem Device.passes_lineIf {K : PortIx → RowIx → Prop} (wraps : Prop) [Decidable wraps] : d.Passes K (d.lineIf wraps) := by
  rw [Device.lineIf]
  split
  · exact d.passes_globalLineEvent
  · exact .refl d

theorem Device.passes_eventsIn (order : EdgeOrder) (wraps : Prop) [Decidable wraps] (crossing : PortIx → RowIx → Option Pos) :
    d.Passes (fun _ _ => True) (d.eventsIn order wraps crossing) := by
  cases order with
  | lineFirst => exact (d.passes_lineIf wraps).trans (Device.passes_crossRows _ crossing)
  | rowsFirst => exact (d.passes_crossRows crossing).trans (Device.passes_lineIf _ wraps)

theorem Device.eventsIn_rowPos (order : EdgeOrder) (wraps : Prop) [Decidable wraps] (crossing : PortIx → RowIx → Option Pos)
    (runs : (d.eventsIn order wraps crossing).pc.job ≠ .config) :
    (d.eventsIn order wraps crossing).rowPos p r = (d.rowPos p r).crossedBy (crossing p r) := by
  cases order with
  | lineFirst =>
    have line := d.passes_lineIf (K := fun _ _ => False) wraps
    have running := ((Device.passes_crossRows (d.lineIf wraps) crossing).runs runs).1
    exact ((d.lineIf wraps).crossRows_rowPos p r crossing runs).trans (congrArg _ ((line.runs running).2 p r id))
  | rowsFirst =>
    have line := (d.crossRows crossing).passes_lineIf (K := fun _ _ => False) wraps
    obtain ⟨running, rest⟩ := line.runs runs
    exact (rest p r id).trans (d.crossRows_rowPos p r crossing running)

theorem Device.passes_armTimers : d.Passes (fun _ _ => True) d.armTimers :=
  .foldl (fun (e : Device) (k : PortIx × RowIx) => e.armRow k.1 k.2) (fun e k => (e.passes_armRow k.1 k.2).mono fun _ _ _ => trivial) _ d

theorem Device.armTimers_rowPos (runs : d.armTimers.pc.job ≠ .config) : d.armTimers.rowPos p r =
    (d.rowPos p r).armedWith d.now ((d.rowPos p r).timerFor d.pu d.tab.job.pitchRatio d.now d.tab.job.interpolation) := by
  rw [Device.armTimers] at runs ⊢
  obtain ⟨e, before, after⟩ := foldl_split (S := Device.Passes (elsewhere p r)) .refl .trans
    (fun d (k : PortIx × RowIx) => d.armRow k.1 k.2) (p, r)
    (fun e k ne => (e.passes_armRow k.1 k.2).mono fun _ _ is => elsewhere_of ne is) allPortRows allPortRows_nodup
    (mem_allPortRows p r) d
  obtain ⟨running, rest⟩ := after.runs runs
  obtain ⟨begun, first⟩ := before.runs ((e.passes_armRow p r).runs running).1
  rw [rest p r (fun ne => ne rfl), e.armRow_rowPos p r running, first p r (fun ne => ne rfl), before.quiet.now, before.quiet.tab, before.pu]
  rfl

end Rows

/-- Settles O40: the PITCH schedule, and the edge's events in their order. -/
theorem forwardEdgeAdvances : Obligations.ForwardEdgeAdvances := by
  refine ⟨fun d => d.globalLineEvent_judged, fun s order working running isDue some_ => ?_⟩
  intro u a b forward
  let d := s.dev.pairTaken
  have active : s.dev.jobActive = true := bne_iff_ne.2 running
  have due_ := Device.filteredTransition_due isDue order
  have movement : s.dev.movement = .forward := forward
  have effect : s.dev.effect (.filteredTransition order) = s.dev.inRowOrder (d.edgeEvents order) := by
    refine due_.trans ?_
    rw [if_pos active, movement]
    rfl
  have edge := d.edgeEvents_eq some_ order
  have result := exec_eq_run (.filteredTransition order) s rfl rfl
  rw [State.run_released _ _ working.1, effect] at result
  generalize d.edgeEvents order = e at edge result
  generalize ordered : s.dev.inRowOrder e = o at result
  refine ⟨{ s with dev := o.settle }, result, rfl, ?_⟩
  intro R A wraps P n timer valid I moved crossing line rows start events
  have spelled : events = start.eventsIn order wraps crossing := by
    cases order <;> rfl
  have edge' : e = if u.debt = 0 then events.armTimers else events := by
    rw [spelled]
    exact edge
  clear edge
  clear_value events
  have passes : start.Passes (fun _ _ => True) e := by
    rw [edge', spelled]
    split
    · exact (start.passes_eventsIn order wraps crossing).trans (Device.passes_armTimers _)
    · exact start.passes_eventsIn order wraps crossing
  have quiet := passes.quiet
  have same : o = { e with hp := o.hp } := by rw [← ordered]; rfl
  have cp : o.settle.cp = s.dev.cp := by
    have first : o.cp = s.dev.cp := by rw [same]; exact quiet.cp
    have ls : o.ls = e.ls := by rw [same]
    rw [Device.settle_cp o (fun free => ?_) (by rw [first]; exact working.2.2.2), first]
    rw [ls] at free ⊢
    exact quiet.window.trans (working.2.2.1 (quiet.service.1 free)).2.2
  have pu : o.settle.pu = e.pu := o.settle_pu.trans (by rw [same])
  have job : o.settle.pc = e.pc := o.settle_pc.trans (by rw [same])
  refine ⟨?_, ?_, o.settle_tab.trans (by rw [same]; exact quiet.tab), o.settle_mem.trans (by rw [same]; exact quiet.mem),
    o.settle_ib.trans (by rw [same]; exact quiet.ib), o.settle_le.trans (by rw [same]; exact quiet.le), cp,
    o.settle_now.trans (by rw [same]; exact quiet.now), fun runs p r => ?_⟩
  · change o.settle = _
    rw [← ordered, edge']
  · change o.settle.pu = { moved with rows := o.settle.pu.rows }
    rw [pu]
    exact passes.pu
  · intro q own old taken armed crossed
    have running : e.pc.job ≠ .config := by
      rw [← job]
      exact runs
    have row : e.rowPos p r = crossed.armedWith s.dev.now armed := by
      have taken_ : crossed = (start.rowPos p r).crossedBy (crossing p r) := rfl
      have armed_ : armed = crossed.timerFor moved R s.dev.now s.dev.tab.job.interpolation := rfl
      rw [armed_, taken_]
      by_cases free : u.debt = 0
      · rw [if_pos free] at edge'
        have before := events.passes_armTimers
        rw [← edge'] at before
        have ran := (before.runs running).1
        have armedRow := events.armTimers_rowPos p r (by rw [← edge']; exact running)
        have earlier := start.passes_eventsIn order wraps crossing
        rw [spelled] at armedRow ran
        rw [edge', spelled, armedRow, start.eventsIn_rowPos p r order wraps crossing ran, earlier.quiet.now, earlier.quiet.tab, earlier.pu]
        rfl
      · rw [if_neg free] at edge'
        have none_ : RowPosition.timerFor ((start.rowPos p r).crossedBy (crossing p r)) moved R s.dev.now s.dev.tab.job.interpolation = none :=
          if_neg fun is => by
            have invalid : moved.intervalValid = false := by
              change (u.debt == 0 && _) = false
              rw [beq_eq_false_iff_ne.2 free, Bool.false_and]
            rw [invalid] at is
            exact Bool.false_ne_true is.1
        rw [edge', spelled] at running ⊢
        rw [none_, start.eventsIn_rowPos p r order wraps crossing running]
        rfl
    have final : o.settle.rowPos p r = e.rowPos p r := congrArg (fun v : Position => rget v.rows p r) pu
    exact final.trans row

end Sys2Proof.Machine
end

section
/-! PROOFS. A permitted WRITE: every row of the opcode table that it answers to stores its words, lets them act and answers OK (R26, R28,
R39). -/

namespace Sys2Proof.Machine

/-! ### The end of the command -/

/-- Where no landing write and no window read waits for a free port, the grant chooses among the row fetches. -/
theorem Device.grant_fetches (d : Device) (port : d.ls.service = none → d.ls.writeQ = [] ∧ d.ls.window = none) :
    ∃ fetchQ service, d.grant = { d with ls := { d.ls with fetchQ := fetchQ, service := service } } := by
  cases busy : d.ls.service with
  | some v => exact ⟨d.ls.fetchQ, d.ls.service, d.grant_busy v busy⟩
  | none =>
    obtain ⟨noWrite, noWindow⟩ := port busy
    cases waiting : d.ls.fetchQ with
    | nil => exact ⟨d.ls.fetchQ, d.ls.service, d.grant_none waiting noWrite noWindow⟩
    | cons f fs => exact ⟨fs, some (.fetch f), by simp only [Device.grant, busy, waiting]⟩

/-- An order whose quiet effects act on a settled device, answered at once. -/
theorem Device.settle_quiet_reply {d e : Device} (settled : d.settled) (quiet : d.Quiet e) (h : OrderHeader) (st : Status)
    (body : List Word) :
    ∃ fetchQ service, (e.reply h st body).settle = { e with
      ls := { e.ls with fetchRaised := [], fetchQ := fetchQ, service := service }
      cp := { e.cp with
        replies := e.cp.replies ++ [answer e.cp.chainId h st body]
        upSending := some (e.cp.upSending.getD .replyQueue) } } := by
  have port : (e.reply h st body).joinFetches.ls.service = none →
      (e.reply h st body).joinFetches.ls.writeQ = [] ∧ (e.reply h st body).joinFetches.ls.window = none := by
    intro free
    obtain ⟨-, noWrite, noWindow⟩ := settled.2.1 (quiet.service.1 free)
    exact ⟨quiet.writeQ.trans noWrite, quiet.window.trans noWindow⟩
  obtain ⟨fetchQ, service, granted⟩ := Device.grant_fetches _ port
  refine ⟨fetchQ, service, ?_⟩
  rw [Device.settle, granted]
  refine (Device.upArbitrate_replied _ (List.append_ne_nil_of_right_ne_nil _ (List.cons_ne_nil _ _)) fun free => ?_).trans rfl
  change e.cp.upSending = none at free
  change e.cp.returnQ = []
  rw [quiet.cp] at free ⊢
  exact (settled.2.2 free).2

/-! ### The rows of the opcode table -/

theorem OrderParcel.writesDescr_of {o : OrderParcel} (code : o.hdr.code = 2) (w : Nat) (p : PortIx)
    (written : o.writes 2 (16 * p.val + w) = true) : o.writesDescr w = true := by
  rw [OrderParcel.writesDescr, OrderParcel.isWrite, OrderParcel.isCode, code, Bool.and_eq_true, List.any_eq_true]
  exact ⟨rfl, p, mem_allPorts p, written⟩

/-- A row that a WRITE answers to takes it as a WRITE. -/
theorem OrderParcel.IsRow.takes {o : OrderParcel} {c : Instr} (row : o.IsRow c) (code : o.hdr.code = 2) :
    ∃ kind : OrderParcel → Bool, kind o = true ∧ ∀ s, exec c s = s.run (fun d => d.takeOrder kind (checkedBody writeOrder)) := by
  have isWrite : o.isWrite = true := by rw [OrderParcel.isWrite, OrderParcel.isCode, code]; rfl
  cases row with
  | write => exact ⟨OrderParcel.isWrite, isWrite, fun _ => rfl⟩
  | enabled p written => exact ⟨(·.writesDescr 0), o.writesDescr_of code 0 p written, fun _ => rfl⟩
  | waveforms table =>
    refine ⟨OrderParcel.writesWaves, ?_, fun _ => rfl⟩
    rw [OrderParcel.writesWaves, isWrite, table]
    rfl
  | testMode p written => exact ⟨(·.writesDescr 13), o.writesDescr_of code 13 p written, fun _ => rfl⟩
  | settle p written => exact ⟨(·.writesDescr 15), o.writesDescr_of code 15 p written, fun _ => rfl⟩
  | tickle p written => exact ⟨(·.writesDescr 14), o.writesDescr_of code 14 p written, fun _ => rfl⟩
  | mask i low high written =>
    refine ⟨OrderParcel.writesMask, ?_, fun _ => rfl⟩
    rw [OrderParcel.writesMask, isWrite, Bool.true_and, List.any_eq_true]
    exact ⟨i - 17, List.mem_range.2 (by omega), by rw [show 17 + (i - 17) = i by omega]; exact written⟩

/-! ### The order -/

section Permitted
variable {s : State} {o : OrderParcel} {rest : List OrderPlace} {c : Instr}

theorem writeOrder_permitted {d : Device} (permitted : d.permits o) : writeOrder o d = (d.applyWrite o).reply o.hdr .ok [] := by
  obtain ⟨-, -, -, -, known, -, inside, open_⟩ := permitted
  have range : ¬ (o.table ≠ 10 ∧ (!d.rangeOk o.table o.start o.data.length) = true) := fun bad => by
    rw [(d.rangeOk_iff o.start o.data.length (by omega)).2 inside] at bad
    exact Bool.false_ne_true bad.2
  rw [writeOrder, if_neg (by omega), if_neg range, if_pos]
  rw [List.all_eq_true]
  exact fun k small => (writable_iff _ _ _ (by omega)).2 (open_ k (List.mem_range.1 small))

theorem OrderParcel.fits_of_permits {d : Device} (permitted : d.permits o) : o.fits = true := by
  obtain ⟨code, low, high, -⟩ := permitted
  simp [OrderParcel.fits, bodyFits, code, low, high]

/-- Storing the words leaves the arbiters' queues and choices. -/
theorem Device.wordsWritten_settled {d : Device} (settled : d.settled) (o : OrderParcel) : (d.wordsWritten o).settled := by
  rw [d.wordsWritten_same o]
  exact Device.settled_congr settled rfl rfl rfl rfl

theorem Device.applyWrite_quiet (d : Device) (o : OrderParcel) : (d.wordsWritten o).Quiet (d.applyWrite o) :=
  Device.quiet_portEffects _ o d.tab

/-- A permitted WRITE stores its words, lets them act, and answers OK. -/
theorem exec_permitted (offered : s.dev.offers o rest) (permitted : s.dev.permits o) (row : o.IsRow c) :
    ∃ fetchQ service, exec c s = .next { s with dev :=
      { (s.dev.withoutFront rest).applyWrite o with
        ls := { ((s.dev.withoutFront rest).applyWrite o).ls with fetchRaised := [], fetchQ := fetchQ, service := service }
        cp := s.dev.cp.answered rest o.hdr .ok [] } } := by
  obtain ⟨kind, isKind, command⟩ := row.takes permitted.1
  have stored := (s.dev.withoutFront rest).wordsWritten_settled (Device.settled_congr offered.1.2 rfl rfl rfl rfl) o
  have quiet := (s.dev.withoutFront rest).applyWrite_quiet o
  have cp : ((s.dev.withoutFront rest).applyWrite o).cp = (s.dev.withoutFront rest).cp := by
    rw [quiet.cp, Device.wordsWritten_same]
  obtain ⟨fetchQ, service, settles⟩ := Device.settle_quiet_reply stored quiet o.hdr .ok []
  refine ⟨fetchQ, service, ?_⟩
  rw [command, State.run_takeOrder s o rest offered kind _ isKind, checkedBody_of_fits _ (OrderParcel.fits_of_permits permitted),
    writeOrder_permitted (d := s.dev.withoutFront rest) permitted, settles, cp]
  rfl

end Permitted

end Sys2Proof.Machine
end

section
/-! PROOFS. What a permitted WRITE stores and what it leaves (R26, R28, R39). -/

namespace Sys2Proof.Machine

/-- `b` follows from `a` by changes of rows, ports, head counters and row fetches alone. -/
def Device.PortsAct (a b : Device) : Prop :=
  b = { a with
    ou := { a.ou with headCounts := b.ou.headCounts }
    ls := { a.ls with fetchQ := b.ls.fetchQ, fetchRaised := b.ls.fetchRaised, service := b.ls.service }
    rf := b.rf
    hp := b.hp }

theorem Device.PortsAct.trans {a b c : Device} (h : a.PortsAct b) (k : b.PortsAct c) : a.PortsAct c := by
  unfold Device.PortsAct at h k ⊢
  rw [k, h]

/-- The words' effects on the ports, all ports together. -/
theorem Device.applyWrite_portsAct (d : Device) (o : OrderParcel) : (d.wordsWritten o).PortsAct (d.applyWrite o) := by
  rw [Device.applyWrite_eq]
  exact foldl_keeps (Q := fun e => (d.wordsWritten o).PortsAct e) _ allPorts
    (fun e p acted => acted.trans (e.localTo_afterPort o d.tab (p := p)).same) _ rfl

theorem Device.afterFilter_ou (d : Device) (old : Nat) : (d.afterFilter old).ou = d.ou := rfl

/-- CLAMPED_WRITE is set and counted where a field was clamped. -/
theorem Device.wordsWritten_events (d : Device) (o : OrderParcel) :
    (d.wordsWritten o).ou.devEvents =
        (if (d.storeWords o.table o.start o.data).2 then d.ou.devEvents ||| 32 else d.ou.devEvents) ∧
      counted d (d.wordsWritten o)
        (fun k => if k = .clampedWrites ∧ (d.storeWords o.table o.start o.data).2 = true then 1 else 0) := by
  have stored := d.storeWords_same o.table o.start o.data
  have ou : (d.wordsWritten o).ou = (if (d.storeWords o.table o.start o.data).2
      then (d.storeWords o.table o.start o.data).1.clamped else (d.storeWords o.table o.start o.data).1).ou := by
    unfold Device.wordsWritten
    dsimp only
    split <;> rfl
  generalize d.storeWords o.table o.start o.data = x at stored ou ⊢
  obtain ⟨e, clamped⟩ := x
  have events : e.ou.devEvents = d.ou.devEvents := (congrArg (fun e : Device => e.ou.devEvents) stored).trans rfl
  have counts : e.ou.devCounts = d.ou.devCounts := (congrArg (fun e : Device => e.ou.devCounts) stored).trans rfl
  have before := counted_same d e counts
  cases clamped with
  | false =>
    rw [if_neg Bool.false_ne_true] at ou
    refine ⟨by rw [ou, events]; rfl, counted_of_counts (counted_congr before fun k => ?_) (by rw [ou])⟩
    exact (if_neg fun is => Bool.false_ne_true is.2).symm
  | true =>
    rw [if_pos rfl] at ou
    refine ⟨by rw [ou, e.clamped_eq, events]; rfl,
      counted_of_counts (counted_congr (counted_trans before (counted_clamped e)) fun k => ?_) (by rw [ou])⟩
    simp only [Nat.zero_add, and_true]

/-- Storing words does not look at the Chain Port. -/
theorem Device.storeWords_withoutFront (rest : List OrderPlace) (table : Nat) (ws : List Word) (d : Device) (i : Nat) :
    (d.withoutFront rest).storeWords table i ws =
      ((d.storeWords table i ws).1.withoutFront rest, (d.storeWords table i ws).2) := by
  induction ws generalizing d i with
  | nil => rfl
  | cons w ws ih =>
    have word : (d.withoutFront rest).storeWord table i w = ((d.storeWord table i w).1.withoutFront rest, (d.storeWord table i w).2) := by
      unfold Device.storeWord
      split <;> rfl
    simp only [Device.storeWords, word, ih]

/-- Settles O23: the words stored, then the ports' changes, none of which reaches what is said here. -/
theorem writeStoresWords : Obligations.WriteStoresWords := by
  intro s o rest c offered permitted row
  obtain ⟨fetchQ, service, result⟩ := exec_permitted offered permitted row
  have acts := (s.dev.withoutFront rest).applyWrite_portsAct o
  have same := (s.dev.withoutFront rest).wordsWritten_same o
  obtain ⟨events, counts⟩ := (s.dev.withoutFront rest).wordsWritten_events o
  have stored := s.dev.storeWords_withoutFront rest o.table o.data o.start
  rw [stored] at same events counts
  unfold Device.PortsAct at acts
  generalize (s.dev.withoutFront rest).wordsWritten o = w at acts same events counts
  generalize (s.dev.withoutFront rest).applyWrite o = e at acts result
  have eq := acts.trans (congrArg (fun w : Device => ({ w with
    ou := { w.ou with headCounts := e.ou.headCounts }
    ls := { w.ls with fetchQ := e.ls.fetchQ, fetchRaised := e.ls.fetchRaised, service := e.ls.service }
    rf := e.rf
    hp := e.hp } : Device)) same)
  have ou := congrArg Device.ou eq
  have ls := congrArg Device.ls eq
  have pu : e.pu = { s.dev.pu with filterOld := e.pu.filterOld } := by rw [eq]
  exact ⟨_, result, rfl, (congrArg Device.tab eq).trans rfl, (congrArg OrderUnit.devMask ou).trans rfl,
    (congrArg OrderUnit.headMasks ou).trans rfl, (congrArg OrderUnit.devEvents ou).trans events,
    counted_of_counts counts ((congrArg OrderUnit.devCounts ou).trans rfl), (congrArg OrderUnit.headEvents ou).trans rfl,
    (congrArg OrderUnit.exec ou).trans offered.2.2.1, (congrArg OrderUnit.memory ou).trans rfl, rfl,
    (congrArg Device.mem eq).trans rfl, (congrArg Device.ib eq).trans rfl, (congrArg Device.le eq).trans rfl,
    (congrArg Device.pc eq).trans rfl, pu, (congrArg Device.now eq).trans rfl, (congrArg Device.freeCount eq).trans rfl,
    (congrArg Device.resetPin eq).trans offered.1.1, (congrArg LineStore.rings ls).trans rfl,
    (congrArg LineStore.writeQ ls).trans rfl, (congrArg LineStore.window ls).trans rfl⟩

end Sys2Proof.Machine
end

section
/-! PROOFS. A WRITE of enabled words, of row counts and of waveforms (R39, R136, R159, R162). -/

namespace Sys2Proof.Machine

/-! ### The parts of a port's effects, in their order -/

section Parts
variable (d : Device) (o : OrderParcel) (old : Tables) (p : PortIx)

/-- The part of the enabled word. -/
def Device.enabling (d : Device) (o : OrderParcel) (p : PortIx) : Device :=
  if o.writes 2 (16 * p.val) then d.afterEnabled p else d

/-- The part of the row count. -/
def Device.rowCounting (d : Device) (o : OrderParcel) (p : PortIx) : Device :=
  if o.writes 2 (16 * p.val + 3) then d.clearDisabledRows p else d

/-- The part of the test mode. -/
def Device.modeTurning (d : Device) (o : OrderParcel) (old : Tables) (p : PortIx) : Device :=
  if o.writes 2 (16 * p.val + 13) then d.afterTestMode p (vget old.heads p).testMode else d

/-- The part of the settle time. -/
def Device.settling (d : Device) (o : OrderParcel) (p : PortIx) : Device :=
  if o.writes 2 (16 * p.val + 15) then d.afterSettle p else d

/-- The part of the idle tickle interval. -/
def Device.tickling (d : Device) (o : OrderParcel) (p : PortIx) : Device :=
  if o.writes 2 (16 * p.val + 14) then d.restartTickle p else d

/-- The part of the operating words. -/
def Device.operating (d : Device) (o : OrderParcel) (old : Tables) (p : PortIx) : Device :=
  ((d.modeTurning o old p).settling o p).tickling o p

/-- The WRITE touches the waveforms of port `p`. -/
def OrderParcel.writesWavesOf (o : OrderParcel) (p : PortIx) : Bool := (List.range 32).any (fun k => o.writes 6 (32 * p.val + k))

theorem OrderParcel.writesWavesOf_iff : o.writesWavesOf p = true ↔ ∃ k < 32, o.writes 6 (32 * p.val + k) = true := by
  simp only [OrderParcel.writesWavesOf, List.any_eq_true, List.mem_range]

/-- The parts of the head descriptor's words, then the part of the waveforms. -/
theorem Device.afterPort_eq : d.afterPort o old p =
    let e := ((d.enabling o p).rowCounting o p).operating o old p
    if o.writesWavesOf p && (e.port p).state == .ready then e.leaveReady p .unloaded else e := rfl

/-- A WRITE touches head descriptors or waveforms, not both. -/
theorem OrderParcel.not_writes_of_waves (waves : o.writesWavesOf p = true) (i : Nat) : o.writes 2 i = false := by
  rw [OrderParcel.writesWavesOf_iff] at waves
  obtain ⟨k, -, written⟩ := waves
  obtain ⟨table, -⟩ := (o.writes_iff 6 _).1 written
  rw [OrderParcel.writes_false_iff]
  omega

theorem Device.afterPort_of_waves (waves : o.writesWavesOf p = true) :
    d.afterPort o old p = if (d.port p).state = .ready then d.leaveReady p .unloaded else d := by
  have untouched := o.not_writes_of_waves p waves
  simp only [Device.afterPort_eq, Device.enabling, Device.rowCounting, Device.operating, Device.modeTurning, Device.settling,
    Device.tickling, untouched, Bool.false_eq_true, if_false, waves, Bool.true_and, beq_iff_eq]

theorem Device.afterPort_of_not_waves (waves : o.writesWavesOf p = false) :
    d.afterPort o old p = ((d.enabling o p).rowCounting o p).operating o old p := by
  simp only [Device.afterPort_eq, waves, Bool.false_and, Bool.false_eq_true, if_false]

/-! ### The operating words -/

theorem Device.operating_of_untouched (untouched : ∀ k, 13 ≤ k → k ≤ 15 → o.writes 2 (16 * p.val + k) = false) :
    d.operating o old p = d := by
  simp only [Device.operating, Device.modeTurning, Device.settling, Device.tickling, untouched 13 le_rfl (by decide),
    untouched 14 (by decide) (by decide), untouched 15 (by decide) le_rfl, Bool.false_eq_true, if_false]

theorem Device.operating_state : ((d.operating o old p).port p).state = (d.port p).state := by
  unfold Device.operating Device.modeTurning Device.settling Device.tickling
  have step : ∀ (e : Device) (b : Bool) (f : Device → Device), ((f e).port p).state = (e.port p).state →
      ((if b then f e else e).port p).state = (e.port p).state := fun e b f kept => by
    cases b
    · rfl
    · exact kept
  rw [step _ _ (·.restartTickle p) (Device.restartTickle_state _ p p), step _ _ (·.afterSettle p) (Device.afterSettle_state _ p),
    step _ _ (·.afterTestMode p _) (Device.afterTestMode_state _ p _)]

/-- A row that does not print and holds no line stays through the part of the operating words. -/
theorem Device.operating_rowKept (r : RowIx) (silent : d.printing p r = false) (free : (d.pipe p r).hold = none) :
    d.RowKept p r (d.operating o old p) := by
  have turned : d.RowKept p r (d.modeTurning o old p) := by
    unfold Device.modeTurning
    split
    · exact d.afterTestMode_rowKept p r _ silent
    · exact .refl d
  have settled : d.RowKept p r ((d.modeTurning o old p).settling o p) := by
    refine turned.trans ?_
    unfold Device.settling
    split
    · exact Device.afterSettle_rowKept _ p r (by rw [turned.pipe, free])
    · exact .refl _
  refine settled.trans ?_
  unfold Device.operating Device.tickling
  split
  · exact Device.restartTickle_rowKept _ p r
  · exact .refl _

/-! ### The row count -/

theorem Device.rowCounting_port : (d.rowCounting o p).port p = d.port p := by
  unfold Device.rowCounting
  split
  · rw [Device.port, Device.clearDisabledRows_hp]
    rfl
  · rfl

theorem Device.rowCounting_tab : (d.rowCounting o p).tab = d.tab := by
  unfold Device.rowCounting
  split
  · exact d.localTo_clearDisabledRows.tab
  · rfl

theorem Device.rowCounting_pipe (r : RowIx) : (d.rowCounting o p).pipe p r =
    if o.writes 2 (16 * p.val + 3) = true ∧ d.rowEnabled p r = false then (d.pipe p r).emptied else d.pipe p r := by
  unfold Device.rowCounting
  by_cases counted : o.writes 2 (16 * p.val + 3) = true
  · rw [if_pos counted, Device.clearDisabledRows_pipe]
    cases on : d.rowEnabled p r with
    | true => rw [if_pos rfl, if_neg fun is => Bool.noConfusion is.2]
    | false => rw [if_neg Bool.false_ne_true, if_pos ⟨counted, rfl⟩]; rfl
  · rw [if_neg counted, if_neg fun is => counted is.1]

/-! ### The enabled word -/

theorem Device.enabling_tab : (d.enabling o p).tab = d.tab := by
  unfold Device.enabling
  split
  · exact d.localTo_afterEnabled.tab
  · rfl

theorem Device.enabling_of_untouched (untouched : o.writes 2 (16 * p.val) = false) : d.enabling o p = d := by
  simp only [Device.enabling, untouched, Bool.false_eq_true, if_false]

section Written
variable (written : o.writes 2 (16 * p.val) = true)
include written

theorem Device.enabling_of_enters (on : (d.head p).enabled = true) (disabled : (d.port p).state = .disabled) :
    d.enabling o p = d.modPort p (fun hp => { hp with state := if hp.sync = .inSync then .unloaded else .down }) := by
  simp only [Device.enabling, written, if_true, Device.afterEnabled, on, disabled]

theorem Device.enabling_of_stays (same : (d.head p).enabled = true ↔ (d.port p).state ≠ .disabled) : d.enabling o p = d := by
  rw [Device.enabling, if_pos written, Device.afterEnabled]
  by_cases on : (d.head p).enabled = true
  · rw [if_pos on, if_neg (same.1 on)]
  · rw [if_neg on, if_pos (not_not.1 fun active => on (same.2 active))]

theorem Device.enabling_of_leaves (off : (d.head p).enabled = false) (active : (d.port p).state ≠ .disabled) :
    d.enabling o p = d.quenchPort p .disabled := by
  rw [Device.enabling, if_pos written, Device.afterEnabled, if_neg (by rw [off]; exact Bool.false_ne_true), if_neg active]

end Written

/-! ### The whole -/

section Descriptor
variable (waves : o.writesWavesOf p = false)
include waves

theorem Device.afterPort_state : ((d.afterPort o old p).port p).state = ((d.enabling o p).port p).state := by
  rw [d.afterPort_of_not_waves o old p waves, Device.operating_state, Device.rowCounting_port]

theorem Device.afterPort_port_of_untouched (untouched : ∀ k, 13 ≤ k → k ≤ 15 → o.writes 2 (16 * p.val + k) = false) :
    (d.afterPort o old p).port p = (d.enabling o p).port p := by
  rw [d.afterPort_of_not_waves o old p waves, Device.operating_of_untouched _ o old p untouched, Device.rowCounting_port]

/-- A row that the enabled word or the row count emptied, and that does not print, stays so. -/
theorem Device.afterPort_pipe_of_emptied (r : RowIx) {q : Pipeline} (emptied : ((d.enabling o p).rowCounting o p).pipe p r = q.emptied)
    (silent : d.rowEnabled p r = false ∨ ((d.enabling o p).port p).state ≠ .ready) : (d.afterPort o old p).pipe p r = q.emptied := by
  rw [d.afterPort_of_not_waves o old p waves, (Device.operating_rowKept _ o old p r ?_ (by rw [emptied]; rfl)).pipe, emptied]
  rw [Device.not_printing_iff, Device.rowCounting_port, Device.rowEnabled_congr (Device.rowCounting_tab _ o p),
    Device.rowEnabled_congr (d.enabling_tab o p)]
  exact silent

end Descriptor

/-- A row of a port that an enabled word did not take from READY, before the row count's part. -/
theorem Device.enabling_pipe (r : RowIx) :
    (d.enabling o p).pipe p r = d.pipe p r ∨ (d.enabling o p).pipe p r = (d.pipe p r).emptied := by
  unfold Device.enabling Device.afterEnabled
  split
  · split
    · split <;> exact Or.inl rfl
    · split
      · exact Or.inl rfl
      · by_cases ready : (d.port p).state = .ready
        · exact Or.inr (d.quenchPort_pipe_of_ready p _ ready r)
        · exact Or.inl (d.quenchPort_pipe_of_not_ready p _ ready r)
  · exact Or.inl rfl

end Parts

/-! ### The statement -/

theorem Device.storeWords_head_of_other {d : Device} {table : Nat} (other : table ≠ 2) (ws : List Word) (i : Nat) (p : PortIx) :
    (d.storeWords table i ws).1.head p = d.head p := by
  refine Device.storeWords_induct (Q := fun e => e.head p = d.head p) table ws i d ?_ rfl
  intro e k w _ _ same
  rw [Device.storeWord_head, if_neg fun is => other is.1, same]

/-- The WRITE's device `u` has at port `p` what the port's part makes of a device `e`, which stands there as `a` with the words stored. -/
structure Device.PartOf (a : Device) (o : OrderParcel) (p : PortIx) (e u : Device) : Prop where
  tab : e.tab = (a.storeWords o.table o.start o.data).1.tab
  port : e.port p = a.port p
  pipe : ∀ r, e.pipe p r = a.pipe p r
  headCounter : ∀ k, e.headCounter p k = a.headCounter p k
  pc : e.pc = a.pc
  now : e.now = a.now
  ring : e.ring p = a.ring p
  standing : ∀ r, e.standing p r = a.standing p r
  tab' : u.tab = e.tab
  port' : u.port p = (e.afterPort o a.tab p).port p
  pipe' : ∀ r, u.pipe p r = (e.afterPort o a.tab p).pipe p r
  headCounter' : ∀ k, u.headCounter p k = (e.afterPort o a.tab p).headCounter p k

theorem Device.PartOf.head {a e u : Device} {o : OrderParcel} {p : PortIx} (part : a.PartOf o p e u) :
    e.head p = (a.storeWords o.table o.start o.data).1.head p := by rw [Device.head, part.tab, Device.head]

/-- A permitted WRITE, port by port. -/
theorem exec_permitted_parts {s : State} {o : OrderParcel} {rest : List OrderPlace} {c : Instr} (offered : s.dev.offers o rest)
    (permitted : s.dev.permits o) (row : o.IsRow c) :
    ∃ u, exec c s = .next { s with dev := u } ∧ ∀ p, ∃ e, s.dev.PartOf o p e u := by
  obtain ⟨fetchQ, service, result⟩ := exec_permitted offered permitted row
  refine ⟨_, result, fun p => ?_⟩
  obtain ⟨e, before, after⟩ := (s.dev.withoutFront rest).applyWrite_split o p
  have words := (s.dev.withoutFront rest).wordsWritten_same o
  have tab : e.tab = (s.dev.storeWords o.table o.start o.data).1.tab := by
    rw [before.tab, Device.wordsWritten_tab, Device.storeWords_withoutFront]
  have same := before.same
  rw [words] at same
  refine ⟨e, tab, before.port.trans (Device.wordsWritten_port _ o p), fun r => (before.pipe r).trans (Device.wordsWritten_pipe _ o p r),
    fun k => (before.headCounter k).trans ?_, (congrArg Device.pc same).trans rfl, (congrArg Device.now same).trans rfl,
    (congrArg (fun d : Device => d.ring p) same).trans rfl, fun r => (congrArg (fun d : Device => d.standing p r) same).trans rfl,
    after.tab.trans (e.localTo_afterPort o _ (p := p)).tab, after.port, after.pipe, after.headCounter⟩
  rw [words]
  rfl

/-- Settles O24: a port's part of the WRITE, in the order of its words. -/
theorem writeMovesPorts : Obligations.WriteMovesPorts := by
  intro s o rest c offered permitted row
  obtain ⟨t, result, parts⟩ := exec_permitted_parts offered permitted row
  refine ⟨_, result, fun p => ?_⟩
  dsimp -zeta only
  obtain ⟨e, part⟩ := parts p
  have head := part.head
  obtain ⟨-, port, pipe, -, -, -, -, -, tab, port', pipe', -⟩ := part
  intro hp on enabledWritten rowCountWritten wavesWritten
  have on_eq : (e.head p).enabled = on := (congrArg (fun tab : Tables => (vget tab.heads p).enabled) tab).symm
  have rows : ∀ r, t.rowEnabled p r = e.rowEnabled p r := Device.rowEnabled_congr tab p
  have waves_iff : o.writesWavesOf p = true ↔ wavesWritten := o.writesWavesOf_iff p
  have of_written : ∀ i, o.writes 2 i = true → o.writesWavesOf p = false := fun i written =>
    Bool.eq_false_iff.2 fun waves => by rw [o.not_writes_of_waves p waves i] at written; exact Bool.false_ne_true written
  have state_ : ∀ waves : o.writesWavesOf p = false, (t.port p).state = ((e.enabling o p).port p).state := fun waves => by
    rw [port', e.afterPort_state o _ p waves]
  have leaves : enabledWritten → on = false → hp.state ≠ .disabled → e.enabling o p = e.quenchPort p .disabled :=
    fun written off active => e.enabling_of_leaves o p written (on_eq.trans off) (by rw [port]; exact active)
  have stays : enabledWritten → (on = true ↔ hp.state ≠ .disabled) → e.enabling o p = e :=
    fun written same => e.enabling_of_stays o p written (by rw [on_eq, port]; exact same)
  refine ⟨fun written isOn disabled => ?_, fun written isOn active => ?_, fun written off active untouched => ?_, fun written off => ?_,
    fun written off ready r => ?_, fun waves ready => ?_, fun unwritten dry => ?_, fun counted r off => ?_,
    fun unwritten untouched still => ?_⟩
  · rw [state_ (of_written _ written), e.enabling_of_enters o p written (on_eq.trans isOn) (by rw [port]; exact disabled),
      Device.port_modPort_same, port]
  · rw [state_ (of_written _ written), stays written (iff_of_true isOn active), port]
  · rw [port', e.afterPort_port_of_untouched o _ p (of_written _ written) untouched, leaves written off active,
      Device.quenchPort_port, port]
    rfl
  · rw [state_ (of_written _ written)]
    by_cases disabled : hp.state = .disabled
    · rw [stays written (iff_of_false (by rw [off]; exact Bool.false_ne_true) (not_not.2 disabled)), port]
      exact disabled
    · rw [leaves written off disabled, Device.quenchPort_port]
      rfl
  · have active : hp.state ≠ .disabled := by rw [ready]; decide
    have quench := leaves written off active
    rw [pipe', e.afterPort_pipe_of_emptied o _ p (of_written _ written) r (q := s.dev.pipe p r) ?_ (Or.inr ?_)]
    · have emptied : (e.enabling o p).pipe p r = (s.dev.pipe p r).emptied := by
        rw [quench, e.quenchPort_pipe_of_ready p _ (by rw [port]; exact ready), pipe]
        rfl
      rw [Device.rowCounting_pipe, emptied]
      split <;> rfl
    · rw [quench, Device.quenchPort_port]
      exact PortState.noConfusion
  · have table : o.table ≠ 2 := by
      obtain ⟨k, -, written⟩ := waves
      have := (o.writes_iff 6 _).1 written
      omega
    have left : e.afterPort o s.dev.tab p = e.leaveReady p .unloaded := by
      rw [e.afterPort_of_waves o _ p (waves_iff.2 waves), if_pos (by rw [port]; exact ready)]
    have old : e.head p = s.dev.head p := head.trans (Device.storeWords_head_of_other table _ _ p)
    rw [left, e.leaveReady_eq] at port' pipe'
    refine ⟨port'.trans ((vget_vset_same _ _ _).trans (by rw [port, old])), fun r => (pipe' r).trans ?_⟩
    exact (rget_emptiedRows _ p p r).trans ((if_pos rfl).trans (by rw [← pipe]; rfl))
  · have dry' : o.writesWavesOf p = false := Bool.eq_false_iff.2 fun waves => dry (waves_iff.1 waves)
    rw [state_ dry', e.enabling_of_untouched o p (Bool.eq_false_iff.2 unwritten), port]
  · rw [rows] at off
    rw [pipe', e.afterPort_pipe_of_emptied o _ p (of_written _ counted) r (q := s.dev.pipe p r) ?_ (Or.inl off)]
    rw [Device.rowCounting_pipe, Device.rowEnabled_congr (e.enabling_tab o p), if_pos ⟨counted, off⟩]
    rcases e.enabling_pipe o p r with same | emptied
    · rw [same, pipe]
    · rw [emptied, pipe]
      rfl
  · have enabling := e.enabling_of_untouched o p (Bool.eq_false_iff.2 unwritten)
    cases waves : o.writesWavesOf p with
    | true =>
      have idle : e.afterPort o s.dev.tab p = e := by
        rw [e.afterPort_of_waves o _ p waves, if_neg]
        exact fun ready => still ⟨waves_iff.1 waves, (congrArg HeadPort.state port).symm.trans ready⟩
      rw [idle] at port' pipe'
      exact ⟨port'.trans port, fun r => Or.inr ((pipe' r).trans (pipe r))⟩
    | false =>
      refine ⟨?_, fun r => ?_⟩
      · rw [port', e.afterPort_port_of_untouched o _ p waves untouched, enabling, port]
      · rw [pipe', e.afterPort_of_not_waves o _ p waves, Device.operating_of_untouched _ o _ p untouched, Device.rowCounting_pipe,
          enabling, rows]
        by_cases off : o.writes 2 (16 * p.val + 3) = true ∧ e.rowEnabled p r = false
        · exact Or.inl off
        · exact Or.inr ((if_neg off).trans (pipe r))

end Sys2Proof.Machine
end

section
/-! PROOFS. What a WRITE of a head's operating words makes of one row and its generator (R149, R152, R171). -/

namespace Sys2Proof.Machine

/-! ### Generators (R171) -/

/-- A row's generator after a number of frames assembled by a head. -/
def HeadDescr.generated (h : HeadDescr) (frames : Nat) (g : BitVec 15) : BitVec 15 :=
  if h.testMode = .prbs then prbsAfter g (frames * (2 * h.nozzlesPerRow)) else g

theorem HeadDescr.generated_zero (h : HeadDescr) (g : BitVec 15) : h.generated 0 g = g := by
  rw [HeadDescr.generated, Nat.zero_mul]
  exact ite_self g

theorem HeadDescr.generated_add (h : HeadDescr) (m n : Nat) (g : BitVec 15) :
    h.generated n (h.generated m g) = h.generated (m + n) g := by
  unfold HeadDescr.generated
  split
  · rw [prbsAfter_add, Nat.add_mul]
  · rfl

/-- A frame takes its row's generator on, in PRBS. -/
theorem HeadPort.takeFrame_prbs (hp : HeadPort) (h : HeadDescr) (r : RowIx) (t : Pos) (codes : Option (List Nat)) :
    (hp.takeFrame h r t codes).prbs = vset hp.prbs r (h.generated 1 (vget hp.prbs r)) := by
  have plain : h.testMode ≠ .prbs → vset hp.prbs r (h.generated 1 (vget hp.prbs r)) = hp.prbs := fun other => by
    rw [HeadDescr.generated, if_neg other]
    exact vset_vget hp.prbs r
  have printed : h.testMode = .normal ∨ h.testMode = .mute → (hp.takeFrame h r t codes).prbs = hp.prbs := fun mode => by
    have out := hp.assemble_printed h r t codes mode
    dsimp only at out
    by_cases dry : h.keepWet = 0
    · rw [if_pos dry] at out
      rw [hp.takeFrame_of_assemble h r t codes out]
    · rw [if_neg dry] at out
      rw [hp.takeFrame_of_assemble h r t codes out]
  cases mode : h.testMode with
  | normal => rw [printed (.inl mode), plain (by rw [mode]; decide)]
  | mute => rw [printed (.inr mode), plain (by rw [mode]; decide)]
  | flood =>
    rw [plain (by rw [mode]; decide), hp.takeFrame_of_assemble h r t codes (hp.assemble_flood h r t codes mode)]
  | ladder =>
    rw [plain (by rw [mode]; decide), hp.takeFrame_of_assemble h r t codes (hp.assemble_ladder h r t codes mode)]
  | prbs =>
    rw [hp.takeFrame_of_assemble h r t codes (hp.assemble_prbs h r t codes mode), prbsCodes_eq, HeadDescr.generated, if_pos mode,
      Nat.one_mul]

/-- The generator of a row of a port. -/
def Device.generator (d : Device) (p : PortIx) (r : RowIx) : BitVec 15 := vget (d.port p).prbs r

section Generators
variable (d : Device) (p : PortIx) (r s : RowIx)

theorem HeadPort.takeFrame_generator (hp : HeadPort) (h : HeadDescr) (t : Pos) (codes : Option (List Nat)) :
    vget (hp.takeFrame h r t codes).prbs s = h.generated (decide (s = r)).toNat (vget hp.prbs s) := by
  rw [HeadPort.takeFrame_prbs, vget_vset]
  by_cases eq : s = r
  · rw [if_pos eq, decide_eq_true eq, eq]
    rfl
  · rw [if_neg eq, decide_eq_false eq]
    exact (h.generated_zero _).symm

theorem Device.handOver_generator : (d.handOver p r).generator p s =
    (d.head p).generated (decide (s = r) && (d.printing p r && (d.pipe p r).toHand.isSome)).toNat (d.generator p s) := by
  cases prints : d.printing p r with
  | false =>
    rw [d.handOver_of_not_printing p r prints, Bool.false_and, Bool.and_false]
    exact (HeadDescr.generated_zero _ _).symm
  | true =>
    rw [Device.generator, d.handOver_port p r prints]
    cases hand : (d.pipe p r).toHand with
    | none =>
      rw [Option.isSome_none, Bool.and_false, Bool.and_false]
      exact (HeadDescr.generated_zero _ _).symm
    | some x =>
      rw [Option.isSome_some, Bool.and_true, Bool.and_true]
      exact HeadPort.takeFrame_generator r s _ _ _ _

theorem Device.fire_generator : (d.fire p r).generator p s = d.generator p s := by
  rw [Device.generator, d.fire_port, HeadPort.fired]
  split <;> rfl

theorem Device.releaseHold_generator : (d.releaseHold p r).generator p s = (d.head p).generated
    (decide (s = r) && (d.printing p r && ({ d.pipe p r with latch := .clear } : Pipeline).toHand.isSome)).toNat (d.generator p s) := by
  have head : (d.fire p r).head p = d.head p := by rw [d.fire_eq]; rfl
  have hand : ({ d.pipe p r with lastFire := d.now, latch := .clear, hold := none } : Pipeline).toHand =
      ({ d.pipe p r with latch := .clear } : Pipeline).toHand := rfl
  rw [Device.releaseHold, Device.handOver_generator, head, d.fire_printing, d.fire_pipe, hand, d.fire_generator]

theorem Device.prepare_generator (active : d.jobActive = true) (prints : d.printing p r = true) :
    (d.prepare p r).generator p s = (d.head p).generated
      (decide (s = r) && ((d.pipe p r).filled (d.head p) d.pc (d.ring p) (d.standing p r)).toHand.isSome).toNat (d.generator p s) := by
  rw [Device.generator, d.prepare_port p r active prints]
  cases hand : ((d.pipe p r).filled (d.head p) d.pc (d.ring p) (d.standing p r)).toHand with
  | none =>
    rw [Option.isSome_none, Bool.and_false]
    exact (HeadDescr.generated_zero _ _).symm
  | some x =>
    rw [Option.isSome_some, Bool.and_true]
    exact HeadPort.takeFrame_generator r s _ _ _ _

end Generators

/-! ### A port through the rows' steps -/

/-- What port `p` and its rows stand in is in `b` as in `a`. -/
structure Device.PortStays (p : PortIx) (a b : Device) : Prop where
  tab : b.tab = a.tab
  pc : b.pc = a.pc
  now : b.now = a.now
  ring : b.ring p = a.ring p
  standing : ∀ r, b.standing p r = a.standing p r
  state : (b.port p).state = (a.port p).state

namespace Device.PortStays
variable {p : PortIx} {a b c : Device}

theorem refl (a : Device) : a.PortStays p a := ⟨rfl, rfl, rfl, rfl, fun _ => rfl, rfl⟩

theorem trans (h : a.PortStays p b) (k : b.PortStays p c) : a.PortStays p c :=
  ⟨k.tab.trans h.tab, k.pc.trans h.pc, k.now.trans h.now, k.ring.trans h.ring, fun r => (k.standing r).trans (h.standing r),
    k.state.trans h.state⟩

theorem head (h : a.PortStays p b) : b.head p = a.head p := by rw [Device.head, h.tab, Device.head]
theorem mfi (h : a.PortStays p b) : b.mfi p = a.mfi p := by rw [Device.mfi, h.tab, h.head, Device.mfi]
theorem jobActive (h : a.PortStays p b) : b.jobActive = a.jobActive := by rw [Device.jobActive, h.pc, Device.jobActive]
theorem printing (h : a.PortStays p b) (r : RowIx) : b.printing p r = a.printing p r := Device.printing_congr h.tab h.state r

end Device.PortStays

theorem Device.LocalTo.portStays {p : PortIx} {R : RowIx → Prop} {a b : Device} (h : a.LocalTo p R b)
    (state : (b.port p).state = (a.port p).state) : a.PortStays p b :=
  ⟨h.tab, h.pc, h.now, h.ring p, h.standing p, state⟩

/-- What the row's step looks at, its pipeline and its generator, is in `b` as in `a`. -/
structure Device.RowApart (p : PortIx) (r : RowIx) (a b : Device) : Prop where
  stays : a.PortStays p b
  pipe : b.pipe p r = a.pipe p r
  generator : b.generator p r = a.generator p r

namespace Device.RowApart
variable {p : PortIx} {r : RowIx} {a b c : Device}

theorem refl (a : Device) : a.RowApart p r a := ⟨.refl a, rfl, rfl⟩

theorem trans (h : a.RowApart p r b) (k : b.RowApart p r c) : a.RowApart p r c :=
  ⟨h.stays.trans k.stays, k.pipe.trans h.pipe, k.generator.trans h.generator⟩

theorem holdDue (h : a.RowApart p r b) : b.holdDue p r = a.holdDue p r := by
  rw [Device.holdDue, Device.mfiPassed, h.pipe, h.stays.mfi, h.stays.now, Device.holdDue, Device.mfiPassed]

end Device.RowApart

section Rows
variable (d : Device) (p : PortIx) (r s : RowIx)

/-! ### The test mode (R152) -/

/-- A change of the kind of test mode drops the row's stage. -/
def Device.turnsRow (d : Device) (p : PortIx) (r : RowIx) : Bool :=
  d.jobActive && d.printing p r && (d.pipe p r).stage.dropsForMode

/-- The row with its stage dropped and filled afresh, before a line is handed over. -/
def Device.refilled (d : Device) (p : PortIx) (r : RowIx) : Pipeline :=
  ({ d.pipe p r with stage := .empty } : Pipeline).filled (d.head p) d.pc (d.ring p) (d.standing p r)

/-- The row after a change of the kind of test mode. -/
def Device.rowTurned (d : Device) (p : PortIx) (r : RowIx) : Pipeline :=
  if d.turnsRow p r then ({ d.pipe p r with stage := .empty } : Pipeline).prepared (d.head p) d.pc (d.ring p) (d.standing p r)
  else d.pipe p r

theorem Device.rowModeChanged_pipe : (d.rowModeChanged p r).pipe p r = d.rowTurned p r := by
  unfold Device.rowModeChanged Device.rowTurned Device.turnsRow
  by_cases turns : (d.jobActive && d.printing p r && (d.pipe p r).stage.dropsForMode) = true
  · rw [if_pos turns, if_pos turns]
    simp only [Bool.and_eq_true] at turns
    obtain ⟨⟨active, prints⟩, -⟩ := turns
    refine (Device.prepare_pipe (d.modPipe p r (fun q => { q with stage := .empty })) p r active prints).trans ?_
    rw [Device.pipe_modPipe_same]
    rfl
  · rw [if_neg turns, if_neg turns]

theorem Device.rowModeChanged_generator : (d.rowModeChanged p r).generator p s = (d.head p).generated
    (decide (s = r) && (d.turnsRow p r && (d.refilled p r).toHand.isSome)).toNat (d.generator p s) := by
  unfold Device.rowModeChanged Device.turnsRow
  by_cases turns : (d.jobActive && d.printing p r && (d.pipe p r).stage.dropsForMode) = true
  · rw [if_pos turns, turns, Bool.true_and]
    simp only [Bool.and_eq_true] at turns
    obtain ⟨⟨active, prints⟩, -⟩ := turns
    refine (Device.prepare_generator (d.modPipe p r (fun q => { q with stage := .empty })) p r s active prints).trans ?_
    rw [Device.pipe_modPipe_same]
    rfl
  · rw [if_neg turns, Bool.eq_false_iff.2 turns, Bool.false_and, Bool.and_false]
    exact (HeadDescr.generated_zero _ _).symm

theorem Device.rowModeChanged_stays : d.PortStays p (d.rowModeChanged p r) :=
  (d.localTo_rowModeChanged (R := (· = r)) rfl).portStays (d.rowModeChanged_state p r p)

theorem Device.rowModeChanged_apart (ne : r ≠ s) : d.RowApart p r (d.rowModeChanged p s) where
  stays := d.rowModeChanged_stays p s
  pipe := (d.localTo_rowModeChanged (R := (· = s)) rfl).pipe p r fun is => ne is.2
  generator := by
    rw [d.rowModeChanged_generator p s r, decide_eq_false ne, Bool.false_and]
    exact HeadDescr.generated_zero _ _

/-- A row through the change of the kind of test mode. -/
theorem Device.modeFold_row :
    (allRows.foldl (fun e r => e.rowModeChanged p r) d).pipe p r = d.rowTurned p r ∧
      (allRows.foldl (fun e r => e.rowModeChanged p r) d).generator p r =
        (d.head p).generated (d.turnsRow p r && (d.refilled p r).toHand.isSome).toNat (d.generator p r) := by
  obtain ⟨e, before, after⟩ := foldl_split (S := Device.RowApart p r) Device.RowApart.refl Device.RowApart.trans
    (fun (e : Device) r => e.rowModeChanged p r) r (fun e s ne => e.rowModeChanged_apart p r s ne) allRows allRows_nodup (mem_allRows r) d
  have turns : e.turnsRow p r = d.turnsRow p r := by
    rw [Device.turnsRow, before.stays.jobActive, before.stays.printing, before.pipe, Device.turnsRow]
  refine ⟨?_, ?_⟩
  · rw [after.pipe, Device.rowModeChanged_pipe, Device.rowTurned, turns, before.pipe, before.stays.head, before.stays.pc,
      before.stays.ring, before.stays.standing, Device.rowTurned]
  · rw [after.generator, Device.rowModeChanged_generator, turns, Device.refilled, before.pipe, before.stays.head, before.stays.pc,
      before.stays.ring, before.stays.standing, before.generator, decide_eq_true rfl, Bool.true_and, Device.refilled]

/-! ### The settle time (R149) -/

/-- One row's part of a settle time. -/
def Device.releaseDue (d : Device) (p : PortIx) (r : RowIx) : Device := if d.holdDue p r then d.releaseHold p r else d

/-- The row after a settle time. -/
def Device.rowReleased (d : Device) (p : PortIx) (r : RowIx) : Pipeline :=
  if d.holdDue p r then
    (d.pipe p r).released (d.head p) d.pc (d.ring p) (d.standing p r) d.now (d.printing p r)
  else d.pipe p r

/-- A release of the row hands a line over. -/
def Device.releaseHands (d : Device) (p : PortIx) (r : RowIx) : Bool :=
  d.holdDue p r && (d.printing p r && ({ d.pipe p r with latch := .clear } : Pipeline).toHand.isSome)

theorem Device.releaseDue_pipe : (d.releaseDue p r).pipe p r = d.rowReleased p r := by
  unfold Device.releaseDue Device.rowReleased
  split
  · exact d.releaseHold_pipe p r
  · rfl

theorem Device.releaseDue_generator : (d.releaseDue p r).generator p s =
    (d.head p).generated (decide (s = r) && d.releaseHands p r).toNat (d.generator p s) := by
  unfold Device.releaseDue Device.releaseHands
  cases due : d.holdDue p r with
  | false =>
    rw [Bool.false_and, Bool.and_false]
    exact (HeadDescr.generated_zero _ _).symm
  | true => exact d.releaseHold_generator p r s

theorem Device.releaseDue_stays : d.PortStays p (d.releaseDue p r) := by
  unfold Device.releaseDue
  split
  · exact (d.localTo_releaseHold (R := (· = r)) rfl).portStays (d.releaseHold_state p r p)
  · exact .refl d

theorem Device.releaseDue_apart (ne : r ≠ s) : d.RowApart p r (d.releaseDue p s) where
  stays := d.releaseDue_stays p s
  pipe := by
    unfold Device.releaseDue
    split
    · exact (d.localTo_releaseHold (R := (· = s)) rfl).pipe p r fun is => ne is.2
    · rfl
  generator := by
    rw [d.releaseDue_generator p s r, decide_eq_false ne, Bool.false_and]
    exact HeadDescr.generated_zero _ _

theorem Device.afterSettle_eq : d.afterSettle p = allRows.foldl (fun e r => e.releaseDue p r) d := rfl

/-- A row through a settle time. -/
theorem Device.afterSettle_row : (d.afterSettle p).pipe p r = d.rowReleased p r ∧
    (d.afterSettle p).generator p r = (d.head p).generated (d.releaseHands p r).toNat (d.generator p r) := by
  rw [Device.afterSettle_eq]
  obtain ⟨e, before, after⟩ := foldl_split (S := Device.RowApart p r) Device.RowApart.refl Device.RowApart.trans
    (fun (e : Device) r => e.releaseDue p r) r (fun e s ne => e.releaseDue_apart p r s ne) allRows allRows_nodup (mem_allRows r) d
  refine ⟨?_, ?_⟩
  · rw [after.pipe, Device.releaseDue_pipe, Device.rowReleased, before.holdDue, before.pipe, before.stays.head, before.stays.pc,
      before.stays.ring, before.stays.standing, before.stays.now, before.stays.printing, Device.rowReleased]
  · rw [after.generator, Device.releaseDue_generator, Device.releaseHands, before.holdDue, before.pipe, before.stays.head,
      before.stays.printing, before.generator, decide_eq_true rfl, Bool.true_and, Device.releaseHands]

theorem Device.releaseDue_fired : ((d.releaseDue p r).headCounter p .fired).toNat =
    min ((d.headCounter p .fired).toNat + (d.holdDue p r).toNat) 4294967295 := by
  unfold Device.releaseDue
  cases due : d.holdDue p r with
  | false => exact headCounted_same d d rfl p .fired
  | true =>
    have counts : headCounted d (d.releaseHold p r) (fun p' c => if p' = p ∧ c = .fired then 1 else 0) :=
      headCounted_of_counts (d.fire_headCounted p r) (by rw [Device.releaseHold, (Device.raises_handOver _ p r).ou])
    exact (counts p .fired).trans (by simp)

/-- FIRED counts every hold whose release time has come. -/
theorem Device.releaseFold_fired (l : List RowIx) (nodup : l.Nodup) :
    ((l.foldl (fun e r => e.releaseDue p r) d).headCounter p .fired).toNat =
      min ((d.headCounter p .fired).toNat + (l.filter (fun r => d.holdDue p r)).length) 4294967295 := by
  induction l generalizing d with
  | nil => exact headCounted_same d d rfl p .fired
  | cons r l ih =>
    obtain ⟨out, nodup⟩ := List.nodup_cons.1 nodup
    have rest : l.filter (fun s => (d.releaseDue p r).holdDue p s) = l.filter (fun s => d.holdDue p s) :=
      List.filter_congr fun s mem => (d.releaseDue_apart p s r fun eq => out (eq ▸ mem)).holdDue
    rw [List.foldl_cons, ih _ nodup, rest, Device.releaseDue_fired, List.filter_cons]
    cases d.holdDue p r with
    | false => simp only [Bool.false_eq_true, if_false, Bool.toNat_false]; omega
    | true => simp only [if_true, List.length_cons, Bool.toNat_true]; omega

end Rows

end Sys2Proof.Machine
end

section
/-! PROOFS. A WRITE of a head's operating words (R39, R149, R152, R171, R173). -/

namespace Sys2Proof.Machine

section Operating
variable (d : Device) (o : OrderParcel) (old : Tables) (p : PortIx)

/-! ### The test mode -/

/-- The WRITE changes the kind of the head's test mode. -/
def Device.kindTurns (d : Device) (o : OrderParcel) (old : Tables) (p : PortIx) : Bool :=
  o.writes 2 (16 * p.val + 13) && ((vget old.heads p).testMode.fetches != (d.head p).testMode.fetches)

/-- The WRITE reseeds the head's generators. -/
def Device.seeds (d : Device) (o : OrderParcel) (old : Tables) (p : PortIx) : Bool :=
  o.writes 2 (16 * p.val + 13) && ((d.head p).testMode == .prbs && (vget old.heads p).testMode != .prbs)

/-- Port `p` with its generators reseeded. -/
def Device.reseeded (d : Device) (p : PortIx) : Device :=
  d.modPort p (fun hp => { hp with prbs := .replicate 4 (BitVec.allOnes 15) })

theorem Device.reseeded_port : (d.reseeded p).port p = { d.port p with prbs := .replicate 4 (BitVec.allOnes 15) } :=
  d.port_modPort_same p _

theorem Device.reseeded_generator (r : RowIx) : (d.reseeded p).generator p r = 0x7FFF := by
  rw [Device.generator, Device.reseeded_port]
  change vget (Vector.replicate 4 (BitVec.allOnes 15)) r = 0x7FFF
  revert r
  decide

theorem Device.reseeded_stays : d.PortStays p (d.reseeded p) :=
  ⟨rfl, rfl, rfl, rfl, fun _ => rfl, by rw [Device.reseeded_port]⟩

/-- The part of the test mode, its two effects apart. -/
theorem Device.modeTurning_eq : d.modeTurning o old p =
    let e := if d.seeds o old p then d.reseeded p else d
    if d.kindTurns o old p then allRows.foldl (fun e r => e.rowModeChanged p r) e else e := by
  unfold Device.modeTurning Device.kindTurns Device.seeds
  cases o.writes 2 (16 * p.val + 13) with
  | false => rfl
  | true =>
    simp only [if_true, Bool.true_and, Device.afterTestMode, Device.reseeded, Bool.and_eq_true, beq_iff_eq, bne_iff_ne, ne_eq,
      ite_not]

theorem Device.modeTurning_seeded :
    let e := if d.seeds o old p then d.reseeded p else d
    d.PortStays p e ∧ d.Raises e ∧ (∀ r, e.pipe p r = d.pipe p r) ∧
      ∀ r, e.generator p r = if d.seeds o old p then 0x7FFF else d.generator p r := by
  dsimp only
  cases d.seeds o old p with
  | false => exact ⟨.refl d, .refl d, fun _ => rfl, fun _ => rfl⟩
  | true => exact ⟨d.reseeded_stays p, d.raises_modPort p _, fun _ => rfl, fun r => d.reseeded_generator p r⟩

theorem Device.rowModeChanged_raises (r : RowIx) : d.Raises (d.rowModeChanged p r) := by
  unfold Device.rowModeChanged
  split
  · exact (d.raises_modPipe p r _).trans (Device.raises_prepare _ p r)
  · exact .refl d

theorem Device.modeTurning_stays : d.PortStays p (d.modeTurning o old p) ∧ d.Raises (d.modeTurning o old p) := by
  obtain ⟨stays, raises, -⟩ := d.modeTurning_seeded o old p
  rw [Device.modeTurning_eq]
  generalize (if d.seeds o old p then d.reseeded p else d) = e at stays raises ⊢
  dsimp only
  split
  · exact foldl_keeps (Q := fun f => d.PortStays p f ∧ d.Raises f) _ allRows
      (fun f r ⟨stays, raises⟩ => ⟨stays.trans (f.rowModeChanged_stays p r), raises.trans (f.rowModeChanged_raises p r)⟩) _
      ⟨stays, raises⟩
  · exact ⟨stays, raises⟩

/-- A row after the part of the test mode. -/
theorem Device.modeTurning_pipe (r : RowIx) :
    (d.modeTurning o old p).pipe p r = if d.kindTurns o old p then d.rowTurned p r else d.pipe p r := by
  obtain ⟨stays, -, pipe, -⟩ := d.modeTurning_seeded o old p
  rw [Device.modeTurning_eq]
  generalize (if d.seeds o old p then d.reseeded p else d) = e at stays pipe ⊢
  dsimp only
  split
  · rw [(e.modeFold_row p r).1, Device.rowTurned, Device.turnsRow, stays.jobActive, stays.printing, pipe, stays.head, stays.pc,
      stays.ring, stays.standing, Device.rowTurned, Device.turnsRow]
  · exact pipe r

/-- The row's line handed over in the part of the test mode. -/
def Device.turnHands (d : Device) (o : OrderParcel) (old : Tables) (p : PortIx) (r : RowIx) : Bool :=
  d.kindTurns o old p && (d.turnsRow p r && (d.refilled p r).toHand.isSome)

theorem Device.modeTurning_generator (r : RowIx) : (d.modeTurning o old p).generator p r =
    (d.head p).generated (d.turnHands o old p r).toNat (if d.seeds o old p then 0x7FFF else d.generator p r) := by
  obtain ⟨stays, -, pipe, generator⟩ := d.modeTurning_seeded o old p
  rw [Device.modeTurning_eq, ← generator r, Device.turnHands]
  generalize (if d.seeds o old p then d.reseeded p else d) = e at stays pipe ⊢
  dsimp only
  cases d.kindTurns o old p with
  | false =>
    rw [Bool.false_and]
    exact (HeadDescr.generated_zero _ _).symm
  | true =>
    rw [if_pos rfl, Bool.true_and, (e.modeFold_row p r).2, Device.turnsRow, Device.refilled, stays.jobActive, stays.printing, pipe,
      stays.head, stays.pc, stays.ring, stays.standing, Device.turnsRow, Device.refilled]

/-- A change of test mode keeps holds and last fire times. -/
theorem Device.modeTurning_hold (r : RowIx) : ((d.modeTurning o old p).pipe p r).hold = (d.pipe p r).hold ∧
    ((d.modeTurning o old p).pipe p r).lastFire = (d.pipe p r).lastFire := by
  rw [Device.modeTurning_pipe]
  split
  · unfold Device.rowTurned
    split
    · exact Pipeline.prepared_hold _ _ _ _ _
    · exact ⟨rfl, rfl⟩
  · exact ⟨rfl, rfl⟩

/-! ### The settle time and the idle tickle interval -/

theorem Device.settling_row (r : RowIx) :
    (d.settling o p).pipe p r = (if o.writes 2 (16 * p.val + 15) then d.rowReleased p r else d.pipe p r) ∧
      (d.settling o p).generator p r =
        (d.head p).generated (o.writes 2 (16 * p.val + 15) && d.releaseHands p r).toNat (d.generator p r) := by
  unfold Device.settling
  cases o.writes 2 (16 * p.val + 15) with
  | false => exact ⟨rfl, (HeadDescr.generated_zero _ _).symm⟩
  | true => exact d.afterSettle_row p r

theorem Device.settling_stays : d.PortStays p (d.settling o p) := by
  unfold Device.settling
  split
  · exact (d.localTo_afterSettle).portStays (d.afterSettle_state p)
  · exact .refl d

theorem Device.tickling_row (r : RowIx) :
    (d.tickling o p).pipe p r = d.pipe p r ∧ (d.tickling o p).generator p r = d.generator p r := by
  unfold Device.tickling Device.restartTickle
  split
  · split
    · refine ⟨rfl, ?_⟩
      rw [Device.generator, Device.port_modPort_same, Device.generator]
    · exact ⟨rfl, rfl⟩
  · exact ⟨rfl, rfl⟩

theorem Device.tickling_headCounter (k : HeadCounter) : (d.tickling o p).headCounter p k = d.headCounter p k := by
  unfold Device.tickling Device.restartTickle
  split
  · split <;> rfl
  · rfl

/-! ### The whole -/

/-- The row after all three parts. -/
theorem Device.operating_pipe (r : RowIx) : (d.operating o old p).pipe p r =
    if o.writes 2 (16 * p.val + 15) then (d.modeTurning o old p).rowReleased p r else (d.modeTurning o old p).pipe p r := by
  rw [Device.operating, (Device.tickling_row _ o p r).1, (Device.settling_row _ o p r).1]

/-- The frames that the parts hand over from the row. -/
def Device.framesHanded (d : Device) (o : OrderParcel) (old : Tables) (p : PortIx) (r : RowIx) : Nat :=
  (d.turnHands o old p r).toNat + (o.writes 2 (16 * p.val + 15) && (d.modeTurning o old p).releaseHands p r).toNat

theorem Device.operating_generator (r : RowIx) : (d.operating o old p).generator p r =
    (d.head p).generated (d.framesHanded o old p r) (if d.seeds o old p then 0x7FFF else d.generator p r) := by
  obtain ⟨stays, -⟩ := d.modeTurning_stays o old p
  rw [Device.operating, (Device.tickling_row _ o p r).2, (Device.settling_row _ o p r).2, Device.modeTurning_generator, stays.head,
    HeadDescr.generated_add, Device.framesHanded]

/-- A hold is due after the part of the test mode as before it. -/
theorem Device.modeTurning_holdDue (r : RowIx) : (d.modeTurning o old p).holdDue p r = d.holdDue p r := by
  obtain ⟨stays, -⟩ := d.modeTurning_stays o old p
  obtain ⟨hold, lastFire⟩ := d.modeTurning_hold o old p r
  rw [Device.holdDue, Device.mfiPassed, hold, lastFire, stays.mfi, stays.now, Device.holdDue, Device.mfiPassed]

theorem Device.operating_fired (written : o.writes 2 (16 * p.val + 15) = true) :
    ((d.operating o old p).headCounter p .fired).toNat =
      min ((d.headCounter p .fired).toNat + (allRows.filter (fun r => d.holdDue p r)).length) 4294967295 := by
  obtain ⟨-, raises⟩ := d.modeTurning_stays o old p
  have due : (fun r => (d.modeTurning o old p).holdDue p r) = fun r => d.holdDue p r := funext fun r => d.modeTurning_holdDue o old p r
  have before : (d.modeTurning o old p).headCounter p .fired = d.headCounter p .fired := by
    rw [Device.headCounter, raises.ou, Device.headCounter]
  rw [Device.operating, Device.tickling_headCounter, Device.settling, if_pos written, Device.afterSettle_eq,
    Device.releaseFold_fired _ p allRows allRows_nodup, due, before]

theorem Device.operating_tickleAt (written : o.writes 2 (16 * p.val + 14) = true) (ready : (d.port p).state = .ready) :
    ((d.operating o old p).port p).tickleAt = d.tickleExpiry p := by
  have stays := (d.modeTurning_stays o old p).1.trans (Device.settling_stays _ o p)
  rw [Device.operating]
  generalize (d.modeTurning o old p).settling o p = e at stays
  rw [Device.tickling, if_pos written, Device.restartTickle, if_pos (stays.state.trans ready), Device.port_modPort_same]
  dsimp only
  rw [Device.tickleExpiry, stays.head, stays.now, Device.tickleExpiry]

end Operating

end Sys2Proof.Machine
end

section
/-! PROOFS. The operating words in the words of their statement (R149, R152, R171, R173). -/

namespace Sys2Proof.Machine

theorem Stage.dropsForMode_iff (g : Stage) :
    g.dropsForMode = true ↔ ∃ x, (∃ pl, g = .waiting x pl) ∨ ∃ cs, g = .staged x cs := by
  cases g with
  | empty => simp [Stage.dropsForMode]
  | waiting x pl => simp [Stage.dropsForMode]
  | fetching x pl => simp [Stage.dropsForMode]
  | staged x cs => simp [Stage.dropsForMode]

theorem jobActive_iff (d : Device) : d.jobActive = true ↔ d.pc.job ≠ .config := by
  rw [Device.jobActive, bne_iff_ne]

theorem TestMode.fetches_ne_iff (a b : TestMode) :
    (a.fetches != b.fetches) = true ↔ ¬ ((a = .normal ∨ a = .mute) ↔ (b = .normal ∨ b = .mute)) := by
  rw [bne_iff_ne, ne_eq, Bool.eq_iff_iff, TestMode.fetches_iff, TestMode.fetches_iff]

section Readings
variable (d : Device) (o : OrderParcel) (old : Tables) (p : PortIx) (r : RowIx)

/-- The rows whose stage the WRITE drops. -/
theorem Device.turns_iff : (d.kindTurns o old p && d.turnsRow p r) = true ↔
    o.writes 2 (16 * p.val + 13) = true ∧
      ¬ (((vget old.heads p).testMode = .normal ∨ (vget old.heads p).testMode = .mute) ↔
        ((d.head p).testMode = .normal ∨ (d.head p).testMode = .mute)) ∧ d.pc.job ≠ .config ∧ d.printing p r = true ∧
      ∃ x, (∃ pl, (d.pipe p r).stage = .waiting x pl) ∨ ∃ cs, (d.pipe p r).stage = .staged x cs := by
  rw [Device.kindTurns, Device.turnsRow, Bool.and_eq_true, Bool.and_eq_true, Bool.and_eq_true, Bool.and_eq_true,
    TestMode.fetches_ne_iff, jobActive_iff, Stage.dropsForMode_iff]
  simp only [and_assoc]

theorem Device.holdDue_iff : d.holdDue p r = true ↔ (d.pipe p r).hold ≠ none ∧ (d.pipe p r).lastFire + d.mfi p ≤ d.now := by
  rw [Device.holdDue, Bool.and_eq_true, Option.isSome_iff_ne_none, d.mfiPassed_iff]

theorem Device.seeds_iff : d.seeds o old p = true ↔
    o.writes 2 (16 * p.val + 13) = true ∧ (d.head p).testMode = .prbs ∧ (vget old.heads p).testMode ≠ .prbs := by
  rw [Device.seeds, Bool.and_eq_true, Bool.and_eq_true, beq_iff_eq, bne_iff_ne]

end Readings

/-! ### Where only the operating words are written -/

section Alone
variable {a : Device} {o : OrderParcel} {p : PortIx} (permitted : a.permits o)
  (alone : a.pc.job ≠ .config ∨ (o.table = 2 ∧ ∀ k < 13, o.writes 2 (16 * p.val + k) = false))
include permitted

theorem OrderParcel.writes_of_locked {table i : Nat} (lock : lockedWord a.pc.job table i) : o.writes table i = false := by
  obtain ⟨-, -, -, -, -, -, -, unlocked⟩ := permitted
  rw [OrderParcel.writes_false_iff]
  rintro ⟨rfl, low, high⟩
  exact unlocked (i - o.start) (by omega) (by rw [Nat.add_sub_cancel' low]; exact lock)

include alone

/-- In a job, or where the range touches no other word of the head, the WRITE leaves the head's words 0 to 12. -/
theorem OrderParcel.others_unwritten (k : Nat) (low : k < 13) : o.writes 2 (16 * p.val + k) = false := by
  rcases alone with running | ⟨-, untouched⟩
  · refine OrderParcel.writes_of_locked permitted ?_
    have word : (16 * p.val + k) % 16 ≤ 12 := by omega
    unfold lockedWord
    tauto
  · exact untouched k low

theorem OrderParcel.waves_unwritten : o.writesWavesOf p = false := by
  rw [Bool.eq_false_iff, ne_eq, OrderParcel.writesWavesOf_iff]
  rintro ⟨k, -, written⟩
  rcases alone with running | ⟨table, -⟩
  · rw [OrderParcel.writes_of_locked permitted (by unfold lockedWord; tauto)] at written
    exact Bool.false_ne_true written
  · have := (o.writes_iff 6 _).1 written
    omega

/-- A port's part is then that of the operating words. -/
theorem Device.afterPort_operating (d : Device) (old : Tables) : d.afterPort o old p = d.operating o old p := by
  have others := OrderParcel.others_unwritten permitted alone
  rw [d.afterPort_of_not_waves o old p (OrderParcel.waves_unwritten permitted alone), d.enabling_of_untouched o p (others 0 (by decide)),
    Device.rowCounting, others 3 (by decide), if_neg Bool.false_ne_true]

/-- The rows that print are then the same. -/
theorem Device.PartOf.printing {e u : Device} (part : a.PartOf o p e u) (r : RowIx) : e.printing p r = a.printing p r := by
  have others := OrderParcel.others_unwritten permitted alone
  have fits : o.table = 2 → o.start + o.data.length ≤ 256 := fun table => by
    obtain ⟨-, -, -, -, -, -, inside, -⟩ := permitted
    rw [withinTable, table] at inside
    exact inside
  have enabled := Device.storeWords_head (·.enabled) 0 (by decide) (fun h i w ne => h.store_enabled i w ne) a o p fits (others 0 (by decide))
  have rowCount := Device.storeWords_head (·.rowCount) 3 (by decide) (fun h i w ne => h.store_rowCount i w ne) a o p fits
    (others 3 (by decide))
  rw [Device.printing, Device.rowEnabled, part.head, enabled, rowCount, part.port, Device.printing, Device.rowEnabled]

end Alone

/-- Settles O25: the parts of the test mode, the settle time and the idle tickle interval, row by row. -/
theorem operatingWordsAct : Obligations.OperatingWordsAct := by
  intro s o rest c offered permitted row
  obtain ⟨t, result, parts⟩ := exec_permitted_parts offered permitted row
  refine ⟨_, result, fun p alone => ?_⟩
  dsimp -zeta only
  obtain ⟨e, part⟩ := parts p
  have acts := Device.afterPort_operating permitted alone e s.dev.tab
  have port' := part.port'
  have pipe' := part.pipe'
  have headCounter' := part.headCounter'
  rw [acts] at port' pipe' headCounter'
  have generator' : ∀ r, t.generator p r = (e.operating o s.dev.tab p).generator p r := fun r => by
    rw [Device.generator, port', Device.generator]
  have head : e.head p = vget t.tab.heads p := by rw [part.tab', Device.head]
  have printing : ∀ r, e.printing p r = s.dev.printing p r := part.printing permitted alone
  obtain ⟨stays, -⟩ := e.modeTurning_stays o s.dev.tab p
  intro new old fetching modeWritten settleWritten mfi turned dropped moded releases
  have mfi_eq : e.mfi p = mfi := by
    rw [e.mfi_eq, head]
    change _ = 5 * (longestWaveform (vget t.tab.waves p) + (vget t.tab.heads p).settle)
    rw [part.tab']
  have turned_iff : ∀ r, (e.kindTurns o s.dev.tab p && e.turnsRow p r) = true ↔ turned r := fun r => by
    rw [e.turns_iff, head, part.pc, printing, part.pipe]
    exact Iff.rfl
  refine ⟨fun r q isModed => ?_, fun written => ?_, fun written ready => ?_⟩
  · have is : q = (e.modeTurning o s.dev.tab p).pipe p r := by
      rw [Device.modeTurning_pipe, Device.rowTurned, part.pipe, head, part.pc, part.ring, part.standing]
      obtain ⟨turns, stands⟩ := isModed
      by_cases turn : turned r
      · have both := (turned_iff r).2 turn
        rw [Bool.and_eq_true] at both
        rw [if_pos both.1, if_pos both.2]
        exact turns turn
      · have not_both := fun both => turn ((turned_iff r).1 both)
        rw [stands turn]
        split
        · next kind => exact (if_neg fun turns => not_both (Bool.and_eq_true_iff.2 ⟨kind, turns⟩)).symm
        · rfl
    have releases_iff : (o.writes 2 (16 * p.val + 15) && (e.modeTurning o s.dev.tab p).holdDue p r) = true ↔ releases q := by
      rw [Bool.and_eq_true, Device.holdDue_iff, stays.mfi, mfi_eq, stays.now, part.now, ← is]
    have pipe := pipe' r
    rw [Device.operating_pipe, Device.rowReleased, ← is, stays.head, head, stays.pc, part.pc, stays.ring, part.ring, stays.standing,
      part.standing, stays.now, part.now, stays.printing, printing] at pipe
    have generated := generator' r
    rw [Device.operating_generator, head] at generated
    refine ⟨fun still => pipe.trans ?_, fun release => pipe.trans ?_, ?_⟩
    · split
      · next written => exact if_neg fun due => still (releases_iff.1 (Bool.and_eq_true_iff.2 ⟨written, due⟩))
      · rfl
    · obtain ⟨written, due⟩ := Bool.and_eq_true_iff.1 (releases_iff.2 release)
      rw [if_pos written, if_pos due]
    intro seeded start first second
    have seeded_iff : e.seeds o s.dev.tab p = true ↔ seeded := by
      rw [e.seeds_iff, head]
      exact Iff.rfl
    have first_iff : e.turnHands o s.dev.tab p r = true ↔ first := by
      rw [Device.turnHands, ← Bool.and_assoc, Bool.and_eq_true, turned_iff, Option.isSome_iff_ne_none, Device.refilled, part.pipe, head,
        part.pc, part.ring, part.standing]
    have second_iff : (o.writes 2 (16 * p.val + 15) && (e.modeTurning o s.dev.tab p).releaseHands p r) = true ↔ second := by
      rw [Device.releaseHands, ← Bool.and_assoc, Bool.and_eq_true, releases_iff, Bool.and_eq_true, Option.isSome_iff_ne_none,
        stays.printing, printing, ← is]
    have start_eq : e.generator p r = start := by rw [Device.generator, part.port]
    rw [start_eq] at generated
    refine ⟨e.framesHanded o s.dev.tab p r, fun both => ?_, fun neither => ?_, fun notBoth either => ?_, fun fresh pattern => ?_,
      fun fresh prbs => ?_, fun seed => ?_⟩
    · rw [Device.framesHanded, first_iff.2 both.1, second_iff.2 both.2]
      rfl
    · rw [Device.framesHanded, Bool.eq_false_iff.2 fun yes => neither.1 (first_iff.1 yes),
        Bool.eq_false_iff.2 fun yes => neither.2 (second_iff.1 yes)]
      rfl
    · rw [Device.framesHanded]
      rcases either with yes | yes
      · rw [first_iff.2 yes, Bool.eq_false_iff.2 fun also => notBoth ⟨yes, second_iff.1 also⟩]
        rfl
      · rw [second_iff.2 yes, Bool.eq_false_iff.2 fun also => notBoth ⟨first_iff.1 also, yes⟩]
        rfl
    · refine generated.trans ?_
      rw [if_neg fun seeds => fresh (seeded_iff.1 seeds), HeadDescr.generated, if_neg pattern]
    · refine generated.trans ?_
      rw [if_neg fun seeds => fresh (seeded_iff.1 seeds), HeadDescr.generated, if_pos prbs]
    · refine generated.trans ?_
      rw [if_pos (seeded_iff.2 seed), HeadDescr.generated, if_pos seed.2.1]
  · have due : (fun r => e.holdDue p r) = fun r =>
        (s.dev.pipe p r).hold.isSome && decide ((s.dev.pipe p r).lastFire + mfi ≤ s.dev.now) := funext fun r => by
      rw [Device.holdDue, Device.mfiPassed, part.pipe, mfi_eq, part.now]
    refine (congrArg BitVec.toNat (headCounter' .fired)).trans ?_
    rw [e.operating_fired o _ p written, due, part.headCounter]
  · refine (congrArg HeadPort.tickleAt port').trans ?_
    rw [e.operating_tickleAt o _ p written (by rw [part.port]; exact ready), Device.tickleExpiry, head, part.now]
    rfl

end Sys2Proof.Machine
end
